-- ==== Sys2Proof/Word.lean ====
section
/-! DEFINITION. The word types of the block (00_scope.md R14): everything is unsigned. -/

namespace Sys2Proof

/-- One payload byte. -/
abbrev Byte := BitVec 8

/-- One 16-bit FIFO element, the smallest unit a frame buffer addresses (R18, R51). -/
abbrev Word := BitVec 16

/-- A command word, an argument word or RESULT (R26, R70). -/
abbrev DWord := BitVec 32

end Sys2Proof
end

