-- ==== Sys2Proof/Machine/Crc.lean ====
section
/-! DEFINITION. The CRC-16 generator (40_crc.md R100), with the Modbus parameters (90_conflicts.md C1). -/

namespace Sys2Proof.Machine

open Sys2Proof

/-- One of the eight shifts: `if c[0] == 1: c <- (c >> 1) ^ 0xA001 else: c <- c >> 1`. -/
def crcShift (c : Word) : Word := if c.getLsbD 0 then (c >>> 1) ^^^ 0xA001 else c >>> 1

/-- One byte: `c <- c ^ zext_16(x)`, then eight shifts. -/
def crcByte (c : Word) (x : Byte) : Word :=
  crcShift (crcShift (crcShift (crcShift (crcShift (crcShift (crcShift (crcShift
    (c ^^^ x.setWidth 16))))))))

/-- `crc16(xs)`: init 0xFFFF, bytes in list order, no final XOR (R100). -/
def crc16 (xs : List Byte) : Word := xs.foldl crcByte 0xFFFF

end Sys2Proof.Machine
end

