-- ==== Sys2Proof/Config.lean ====
section
/-! DEFINITION. What is fixed for a whole run (00_scope.md R9 to R13): the names the spec enumerates, the
OPEN parameters as one structure of plain data, the reference configuration REFCFG, and the free values. -/

namespace Sys2Proof

/-- The five subnets (R9, `NSUB = 5`). -/
inductive Subnet where
  | s1 | s2 | s3 | s4 | s5
deriving DecidableEq, Repr

/-- Transmit or receive (R20). -/
inductive BufKind where
  | tx | rx
deriving DecidableEq, Repr

/-- One of the ten frame buffers TX1 to TX5 and RX1 to RX5 (R20, R72). -/
structure BufId where
  kind : BufKind
  sub : Subnet
deriving DecidableEq, Repr

/-- The device classes: Force Actuator, Hardpoint, Hardpoint Monitor (R17, R73). Class code 3, "not a
class", is not one of them. -/
inductive DevClass where
  | fa | hp | hm
deriving DecidableEq, Repr

/-- The exception kinds EXC_MAP names, DEVWARN bits 0 to 3 (R30, R188). -/
inductive ExcKind where
  | illegalFunction | illegalDataAddress | illegalDataValue | deviceInvalidLength
deriving DecidableEq, Repr

/-- A telemetry record, as its bytes (R12: `TelRec` is a parameter). DESIGN CHOICE, log 5. -/
abbrev TelRec := List Byte

/-- A shape's decoder `dec : TelRec → List UInt8 → TelRec` (R12), as plain data. `moves` copies payload
bytes into record bytes, each pair being (record byte, payload byte); `firmware k` is any other total
function, the opaque `Config.firmwareDecoder k`. DESIGN CHOICE, log 5. -/
inductive Decoder where
  | moves (ms : List (Nat × Nat))
  | firmware (k : Nat)
deriving DecidableEq, Repr

/-- One entry of the device map DMAP (R12). `cls = none` is class code 3, "not a class" (R73). -/
structure DeviceEntry where
  subnet : Subnet
  addr : Byte
  cls : Option DevClass
  idx : Nat
deriving DecidableEq, Repr

/-- One entry of the response-shape table SHAPES (R12): the total frame length `len`, CRC included (R190),
and the decoder. -/
structure ShapeEntry where
  cls : DevClass
  fc : Byte
  len : Nat
  dec : Decoder
deriving DecidableEq, Repr

/-- The OPEN parameters of R10 to R12 and R75 to R78. -/
structure Config where
  /-- CAP_WORDS (R10) -/
  capWords : Nat
  /-- NFA (R11) -/
  nfa : Nat
  /-- NHM (R11) -/
  nhm : Nat
  /-- DMAP (R12), a pair not listed maps to none -/
  dmap : List DeviceEntry
  /-- SHAPES (R12), a pair not listed has no shape -/
  shapes : List ShapeEntry
  /-- EXC_MAP (R12), a code not listed has no kind -/
  excMap : List (Byte × ExcKind)
  /-- TEL0 (R12) -/
  tel0 : TelRec
  /-- TX_DATA_TAG (R75) -/
  txDataTag : Word
  /-- CW_DELAY_BASE (R76) -/
  cwDelayBase : Word
  /-- DELAY_ARG_BITS (R76) -/
  delayArgBits : Nat
  /-- CW_TRIGGER (R76) -/
  cwTrigger : Word
  /-- CW_EOF (R76) -/
  cwEof : Word
  /-- CW_TIMESTAMP (R76) -/
  cwTimestamp : Word
  /-- RX_BYTE_LSB (R77) -/
  rxByteLsb : Nat
  /-- HDR_WORDS (R78) -/
  hdrWords : Nat
deriving DecidableEq, Repr

/-- What the n-th read of an unwritten word yields: an unconstrained 16-bit value (20_memory.md R65). The
step applies it to a counter that every draw advances, so no two reads are assumed to agree. Log 6. -/
opaque Config.freeWord : Nat → BitVec 16

/-- The response decoders that are no byte moves: any total functions (R12, R191). Log 5. -/
opaque Config.firmwareDecoder : Nat → TelRec → List Byte → TelRec

/-- The reference configuration REFCFG of 95_test_vectors.md section 1 (R13): the spec's own placeholders.
The record {mode, status, fstatus, force} is held as the 8 bytes mode, status[15:8], status[7:0], fstatus,
force[31:24] .. force[7:0]. -/
def Config.refcfg : Config where
  capWords := 64
  nfa := 4
  nhm := 6
  dmap :=
    [ ⟨.s1, 0x0A, some .fa, 0⟩, ⟨.s1, 0x0B, some .fa, 1⟩, ⟨.s1, 0x54, some .hp, 0⟩,
      ⟨.s1, 0xF4, some .hm, 0⟩, ⟨.s1, 0x63, none, 0⟩, ⟨.s2, 0x0A, some .fa, 2⟩ ]
  shapes :=
    [ ⟨.fa, 0x12, 7, .moves [(0, 0), (1, 1), (2, 2)]⟩,
      ⟨.fa, 0x4B, 9, .moves [(3, 0), (4, 1), (5, 2), (6, 3), (7, 4)]⟩,
      ⟨.hp, 0x12, 7, .moves [(0, 0), (1, 1), (2, 2)]⟩,
      ⟨.hm, 0x12, 7, .moves [(0, 0), (1, 1), (2, 2)]⟩ ]
  excMap :=
    [ (1, .illegalFunction), (2, .illegalDataAddress), (3, .illegalDataValue),
      (4, .deviceInvalidLength) ]
  tel0 := [0, 0, 0, 0, 0, 0, 0, 0]
  txDataTag := 0x0001
  cwDelayBase := 0xC000
  delayArgBits := 12
  cwTrigger := 0xE000
  cwEof := 0xF000
  cwTimestamp := 0xD000
  rxByteLsb := 1
  hdrWords := 2

end Sys2Proof
end

