-- ==== Sys2Proof/Syntax.lean ====
section
/-! DEFINITION. The instructions: one constructor per row of spec/opcode_table.json, and the transaction
that carries a command (30_encoding.md R70, R79). -/

namespace Sys2Proof

/-- The cursor a GET_INDEX or SET_INDEX selects by `sub[0]`: 0 = WIDX, 1 = RIDX (R74). -/
inductive Cursor where
  | write | read
deriving DecidableEq, Repr

/-- One command transaction (CMD, ARG, BYTES) on the host command port (R70). -/
structure Transaction where
  cmd : DWord
  arg : DWord
  bytes : List Byte
deriving DecidableEq, Repr

/-- One constructor per row of the opcode table: the 37 commands of R79, then the 8 FIFO word formats of
R75 to R78. Operands that only a legal command word can hold (a valid buffer, a class) are typed so; the
operand values R80 (g), (h) and (i) still forbid are checked by `Instr.wf`. -/
inductive Instr where
  /-- WRITE_U8 b, x (R122) -/
  | writeU8 (b : BufId) (x : Byte)
  /-- WRITE_U16 b, v (R123) -/
  | writeU16 (b : BufId) (v : Word)
  /-- WRITE_U32 b, v (R124) -/
  | writeU32 (b : BufId) (v : DWord)
  /-- WRITE_FLOAT b, v: a 32-bit pattern (R125) -/
  | writeFloat (b : BufId) (v : DWord)
  /-- WRITE_STRING b, n with its BYTES (R126) -/
  | writeString (b : BufId) (n : Word) (bytes : List Byte)
  /-- WRITE_WORD b, w (R127) -/
  | writeWord (b : BufId) (w : Word)
  /-- WRITE_CRC b (R128) -/
  | writeCrc (b : BufId)
  /-- WRITE_DELAY b, n (R129) -/
  | writeDelay (b : BufId) (n : Word)
  /-- WRITE_TRIGGER b (R130) -/
  | writeTrigger (b : BufId)
  /-- MARK_END_OF_FRAME b (R131) -/
  | markEndOfFrame (b : BufId)
  /-- WRITE_TIMESTAMP b (R132) -/
  | writeTimestamp (b : BufId)
  /-- MARK_START_OF_FRAME b (R133) -/
  | markStartOfFrame (b : BufId)
  /-- READ_U8 b (R161) -/
  | readU8 (b : BufId)
  /-- READ_U16 b (R162) -/
  | readU16 (b : BufId)
  /-- READ_U32 b (R163) -/
  | readU32 (b : BufId)
  /-- READ_FLOAT b (R164) -/
  | readFloat (b : BufId)
  /-- READ_STRING b, n (R165) -/
  | readString (b : BufId) (n : Word)
  /-- READ_CRC b (R166) -/
  | readCrc (b : BufId)
  /-- READ_WORD b (R167) -/
  | readWord (b : BufId)
  /-- GET_INDEX b, sel (R134) -/
  | getIndex (b : BufId) (sel : Cursor)
  /-- SET_INDEX b, sel, v (R135) -/
  | setIndex (b : BufId) (sel : Cursor) (v : Word)
  /-- SET_LENGTH b, v (R136) -/
  | setLength (b : BufId) (v : Word)
  /-- GET_LENGTH b (R137) -/
  | getLength (b : BufId)
  /-- CLEAR b (R138) -/
  | clear (b : BufId)
  /-- COMPUTE_CRC16 b, start, count (R105) -/
  | computeCrc16 (b : BufId) (start count : Word)
  /-- TX_SEND of the transmit buffer of a subnet (R168) -/
  | txSend (sub : Subnet)
  /-- PARSE with any 4-bit buffer code: a code that is not RX1 to RX5 is R195's case (R180) -/
  | parse (code : BitVec 4)
  /-- VERIFY_RESPONSES (R197) -/
  | verifyResponses
  /-- SET_EXPECTED c, i, e (R198) -/
  | setExpected (c : DevClass) (i : Word) (e : BitVec 2)
  /-- GET_EXPECTED c, i (R199) -/
  | getExpected (c : DevClass) (i : Word)
  /-- CLEAR_EXPECTED (R200) -/
  | clearExpected
  /-- READ_STATUS (R201) -/
  | readStatus
  /-- READ_DEVWARN c, i (R202) -/
  | readDevwarn (c : DevClass) (i : Word)
  /-- READ_TIMEOUT c, i (R203) -/
  | readTimeout (c : DevClass) (i : Word)
  /-- CLEAR_WARNINGS (R204) -/
  | clearWarnings
  /-- READ_RXTS of the receive buffer of a subnet (R205) -/
  | readRxts (sub : Subnet)
  /-- READ_FAULTCMD (R206) -/
  | readFaultcmd
  /-- TX_DATA_WORD: the transmit data word of byte x (R75) -/
  | txDataWord (x : Byte)
  /-- TX_DELAY_WORD: the delay control word of n (R76) -/
  | txDelayWord (n : Word)
  /-- TX_TRIGGER_WORD (R76) -/
  | txTriggerWord
  /-- TX_EOF_WORD (R76) -/
  | txEofWord
  /-- TX_TIMESTAMP_WORD (R76) -/
  | txTimestampWord
  /-- RX_LENGTH_WORD: header word 0 of a receive record, the declared byte count (R78) -/
  | rxLengthWord (len : Word)
  /-- RX_TIMESTAMP_WORD: a later header word of a receive record (R78) -/
  | rxTimestampWord (ts : Word)
  /-- RX_DATA_WORD: a body word of a receive record, carrying one frame byte (R77, R78) -/
  | rxDataWord (x : Byte)
deriving DecidableEq, Repr

/-- The rows of the table that are commands (R79); the other eight are FIFO word formats. -/
def Instr.isCommand : Instr → Bool
  | .txDataWord _ | .txDelayWord _ | .txTriggerWord | .txEofWord | .txTimestampWord
  | .rxLengthWord _ | .rxTimestampWord _ | .rxDataWord _ => false
  | .writeU8 .. | .writeU16 .. | .writeU32 .. | .writeFloat .. | .writeString .. | .writeWord ..
  | .writeCrc _ | .writeDelay .. | .writeTrigger _ | .markEndOfFrame _ | .writeTimestamp _
  | .markStartOfFrame _ | .readU8 _ | .readU16 _ | .readU32 _ | .readFloat _ | .readString ..
  | .readCrc _ | .readWord _ | .getIndex .. | .setIndex .. | .setLength .. | .getLength _
  | .clear _ | .computeCrc16 .. | .txSend _ | .parse _ | .verifyResponses | .setExpected ..
  | .getExpected .. | .clearExpected | .readStatus | .readDevwarn .. | .readTimeout ..
  | .clearWarnings | .readRxts _ | .readFaultcmd => true

end Sys2Proof
end

