-- ==== Sys2Proof/WellFormed.lean ====
section
/-! DEFINITION. Which configurations the model admits (00_scope.md R12, 30_encoding.md R75 to R78) and which
operand values a command may carry (30_encoding.md R80 (g), (h), (i)). -/

namespace Sys2Proof

/-- N_c, the number of devices of a class; `NHP = 6` (R11). -/
def Config.count (cfg : Config) : DevClass → Nat
  | .fa => cfg.nfa
  | .hp => 6
  | .hm => cfg.nhm

/-- The low k bits set: `mask(DELAY_ARG_BITS)` of R86. -/
def lowMask (k : Nat) : Word := BitVec.ofNat 16 (2 ^ k - 1)

/-- `(w & 0xFE01) = TX_DATA_TAG`: w has the data-word form (R76 (ii), R86). -/
def Config.isDataForm (cfg : Config) (w : Word) : Bool := w &&& 0xFE01 == cfg.txDataTag

/-- w lies in the delay range {CW_DELAY_BASE | n : n < 2^DELAY_ARG_BITS} (R76 (iii), R86). -/
def Config.inDelayRange (cfg : Config) (w : Word) : Bool :=
  w &&& ~~~(lowMask cfg.delayArgBits) == cfg.cwDelayBase

/-- R76 (ii) for the whole delay range at once: outside the bits n can set, CW_DELAY_BASE and TX_DATA_TAG
differ in a bit of the data-word form, so no delay word has that form. -/
def Config.delayRangeClear (cfg : Config) : Bool :=
  (cfg.cwDelayBase ^^^ cfg.txDataTag) &&& 0xFE01 &&& ~~~(lowMask cfg.delayArgBits) != 0

/-- R12 on one DMAP entry: an entry of class code 0 to 2 has an index below that class's count. -/
def Config.entryOk (cfg : Config) (e : DeviceEntry) : Bool :=
  match e.cls with
  | some c => decide (e.idx < cfg.count c)
  | none => true

/-- R12 on two DMAP entries: DMAP is a function, and no two addresses of a subnet share a (class, index);
class code 3 is no class (R73), so two such entries share none. Log 10. -/
def entriesApart (a b : DeviceEntry) : Bool :=
  a.subnet != b.subnet
    || (a.addr != b.addr && (a.cls.isNone || a.cls != b.cls || a.idx != b.idx))

/-- R12: the device map is well-formed. -/
def Config.dmapOk (cfg : Config) : Bool :=
  cfg.dmap.all cfg.entryOk && decide (cfg.dmap.Pairwise fun a b => entriesApart a b = true)

/-- R75 to R77: the constraints on the FIFO word codes. -/
def Config.codesOk (cfg : Config) : Bool :=
  cfg.txDataTag &&& 0x01FF == 1
    && decide (cfg.delayArgBits ≤ 16)
    && cfg.cwDelayBase &&& lowMask cfg.delayArgBits == 0
    && !cfg.isDataForm cfg.cwTrigger && !cfg.isDataForm cfg.cwEof
    && !cfg.isDataForm cfg.cwTimestamp && cfg.delayRangeClear
    && cfg.cwTrigger != cfg.cwEof && cfg.cwTrigger != cfg.cwTimestamp
    && cfg.cwEof != cfg.cwTimestamp
    && !cfg.inDelayRange cfg.cwTrigger && !cfg.inDelayRange cfg.cwEof
    && !cfg.inDelayRange cfg.cwTimestamp
    && decide (cfg.rxByteLsb ≤ 8)

/-- A configuration the model admits: R10, R12, R75 to R78, and `len >= 4` of every shape (R190). Any other
is refused (R12, 93_implementation_defined.md row 9). -/
def Config.wf (cfg : Config) : Bool :=
  decide (1 ≤ cfg.capWords) && decide (cfg.capWords ≤ 65535)
    && decide (1 ≤ cfg.hdrWords) && decide (cfg.hdrWords ≤ 3)
    && cfg.codesOk && cfg.dmapOk && cfg.shapes.all fun e => decide (4 ≤ e.len)

/-- The operand values a command may carry: (g) a data index below N_c, (h) a delay count below
2^DELAY_ARG_BITS, (i) as many BYTES as `imm` says (R80). The delay FIFO word has the same bound (R76). -/
def Instr.wf (cfg : Config) : Instr → Bool
  | .writeString _ n bytes => bytes.length == n.toNat
  | .writeDelay _ n | .txDelayWord n => decide (n.toNat < 2 ^ cfg.delayArgBits)
  | .setExpected c i _ | .getExpected c i | .readDevwarn c i | .readTimeout c i =>
      decide (i.toNat < cfg.count c)
  | .writeU8 .. | .writeU16 .. | .writeU32 .. | .writeFloat .. | .writeWord .. | .writeCrc _
  | .writeTrigger _ | .markEndOfFrame _ | .writeTimestamp _ | .markStartOfFrame _ | .readU8 _
  | .readU16 _ | .readU32 _ | .readFloat _ | .readString .. | .readCrc _ | .readWord _
  | .getIndex .. | .setIndex .. | .setLength .. | .getLength _ | .clear _ | .computeCrc16 ..
  | .txSend _ | .parse _ | .verifyResponses | .clearExpected | .readStatus | .clearWarnings
  | .readRxts _ | .readFaultcmd | .txDataWord _ | .txTriggerWord | .txEofWord
  | .txTimestampWord | .rxLengthWord _ | .rxTimestampWord _ | .rxDataWord _ => true

end Sys2Proof
end

