-- ==== Sys2Proof/Decode.lean ====
section
/-! DEFINITION. The two encodings of the block (30_encoding.md). First the decoder of the host command port,
total on any transaction, and the encoder; then the FIFO words, both ways. -/

namespace Sys2Proof

/-! ## The CMD fields (R71) -/

/-- `op`, CMD[31:24]. -/
def Transaction.op (t : Transaction) : BitVec 8 := t.cmd.extractLsb' 24 8
/-- `buf`, CMD[23:20]. -/
def Transaction.buf (t : Transaction) : BitVec 4 := t.cmd.extractLsb' 20 4
/-- `sub`, CMD[19:16]. -/
def Transaction.sub (t : Transaction) : BitVec 4 := t.cmd.extractLsb' 16 4
/-- `imm`, CMD[15:0]. -/
def Transaction.imm (t : Transaction) : Word := t.cmd.extractLsb' 0 16

/-- `CMD = op<<24 | buf<<20 | sub<<16 | imm` (R84). -/
def cmdWord (op : BitVec 8) (buf sub : BitVec 4) (imm : Word) : DWord :=
  op.setWidth 32 <<< 24 ||| buf.setWidth 32 <<< 20 ||| sub.setWidth 32 <<< 16 ||| imm.setWidth 32

/-! ## Field codes -/

/-- The subnet of `buf[2:0]`: `sub(b) = buf[2:0] + 1` for 0 to 4, the others reserved (R72). -/
def subnetOfCode (c : BitVec 3) : Option Subnet :=
  match c.toNat with
  | 0 => some .s1
  | 1 => some .s2
  | 2 => some .s3
  | 3 => some .s4
  | 4 => some .s5
  | _ => none

/-- The `buf[2:0]` code of a subnet (R72). -/
def Subnet.code : Subnet → BitVec 3
  | .s1 => 0
  | .s2 => 1
  | .s3 => 2
  | .s4 => 3
  | .s5 => 4

/-- `kind = buf[3] ? RX : TX` (R72). -/
def kindOfBit (rx : Bool) : BufKind := if rx then .rx else .tx

/-- The `buf[3]` bit of a kind (R72). -/
def BufKind.bit : BufKind → Bool
  | .tx => false
  | .rx => true

/-- The buffer of a `buf` code; reserved codes have none (R72). -/
def bufOfCode (c : BitVec 4) : Option BufId :=
  (subnetOfCode (c.extractLsb' 0 3)).map fun s => ⟨kindOfBit (c.getLsbD 3), s⟩

/-- The `buf` code of a buffer (R72). -/
def BufId.code (b : BufId) : BitVec 4 := BitVec.ofBool b.kind.bit ++ b.sub.code

/-- The subnet of the transmit buffer that a `buf` code names (R72, R80 (d)). -/
def txOfCode (c : BitVec 4) : Option Subnet :=
  if c.getLsbD 3 then none else subnetOfCode (c.extractLsb' 0 3)

/-- The subnet of the receive buffer that a `buf` code names (R72, R80 (d), R195). -/
def rxOfCode (c : BitVec 4) : Option Subnet :=
  if c.getLsbD 3 then subnetOfCode (c.extractLsb' 0 3) else none

/-- The class of a class code; 3 is not a class (R73). -/
def classOfCode (c : BitVec 2) : Option DevClass :=
  match c.toNat with
  | 0 => some .fa
  | 1 => some .hp
  | 2 => some .hm
  | _ => none

/-- The class code of a class (R73). -/
def DevClass.code : DevClass → BitVec 2
  | .fa => 0
  | .hp => 1
  | .hm => 2

/-- The cursor of `sub[0]`, with `sub[3:1]` zero (R74). -/
def cursorOfSub (s : BitVec 4) : Option Cursor :=
  match s.toNat with
  | 0 => some .write
  | 1 => some .read
  | _ => none

/-- The `sub` field of a cursor (R74). -/
def Cursor.code : Cursor → BitVec 4
  | .write => 0
  | .read => 1

/-! ## The command decoder -/

/-- A command that takes a buffer and whose `sub` and `imm` must be 0 (R79, R80 (b), (e), (f)). -/
def onBuf (t : Transaction) (k : BufId → Instr) : Option Instr :=
  if t.sub = 0 ∧ t.imm = 0 then (bufOfCode t.buf).map k else none

/-- A command that takes a buffer and an `imm` operand, and whose `sub` must be 0 (R79, R80 (b), (e)). -/
def onBufImm (t : Transaction) (k : BufId → Word → Instr) : Option Instr :=
  if t.sub = 0 then (bufOfCode t.buf).map fun b => k b t.imm else none

/-- A command that takes no field at all (R79, R80 (c), (e), (f)). -/
def onNothing (t : Transaction) (i : Instr) : Option Instr :=
  if t.buf = 0 ∧ t.sub = 0 ∧ t.imm = 0 then some i else none

/-- A per-device command: class in `sub[3:2]`, index in `imm`, `buf` and `sub[1:0]` zero (R74, R80 (c),
(e), (g)). -/
def onDevice (t : Transaction) (k : DevClass → Word → Instr) : Option Instr :=
  if t.buf = 0 ∧ t.sub.extractLsb' 0 2 = 0 then
    (classOfCode (t.sub.extractLsb' 2 2)).map fun c => k c t.imm
  else none

/-- The commands other than WRITE_STRING, by opcode (R79). -/
def decodePlain (t : Transaction) : Option Instr :=
  match t.op.toNat with
  | 0x01 => onBuf t fun b => .writeU8 b (t.arg.extractLsb' 0 8)
  | 0x02 => onBuf t fun b => .writeU16 b (t.arg.extractLsb' 0 16)
  | 0x03 => onBuf t fun b => .writeU32 b t.arg
  | 0x04 => onBuf t fun b => .writeFloat b t.arg
  | 0x06 => onBuf t fun b => .writeWord b (t.arg.extractLsb' 0 16)
  | 0x07 => onBuf t .writeCrc
  | 0x08 => onBufImm t .writeDelay
  | 0x09 => onBuf t .writeTrigger
  | 0x0A => onBuf t .markEndOfFrame
  | 0x0B => onBuf t .writeTimestamp
  | 0x0C => onBuf t .markStartOfFrame
  | 0x10 => onBuf t .readU8
  | 0x11 => onBuf t .readU16
  | 0x12 => onBuf t .readU32
  | 0x13 => onBuf t .readFloat
  | 0x14 => onBufImm t .readString
  | 0x15 => onBuf t .readCrc
  | 0x16 => onBuf t .readWord
  | 0x20 =>
      if t.imm = 0 then
        (bufOfCode t.buf).bind fun b => (cursorOfSub t.sub).map fun c => .getIndex b c
      else none
  | 0x21 => (bufOfCode t.buf).bind fun b => (cursorOfSub t.sub).map fun c => .setIndex b c t.imm
  | 0x22 => onBufImm t .setLength
  | 0x23 => onBuf t .getLength
  | 0x24 => onBuf t .clear
  | 0x25 => onBufImm t fun b st => .computeCrc16 b st (t.arg.extractLsb' 0 16)
  | 0x30 => if t.sub = 0 ∧ t.imm = 0 then (txOfCode t.buf).map .txSend else none
  | 0x40 => if t.sub = 0 ∧ t.imm = 0 then some (.parse t.buf) else none
  | 0x41 => onNothing t .verifyResponses
  | 0x42 =>
      if t.buf = 0 then
        (classOfCode (t.sub.extractLsb' 2 2)).map fun c =>
          .setExpected c t.imm (t.sub.extractLsb' 0 2)
      else none
  | 0x43 => onDevice t .getExpected
  | 0x44 => onNothing t .clearExpected
  | 0x45 => onNothing t .readStatus
  | 0x46 => onDevice t .readDevwarn
  | 0x47 => onDevice t .readTimeout
  | 0x48 => onNothing t .clearWarnings
  | 0x49 => if t.sub = 0 ∧ t.imm = 0 then (rxOfCode t.buf).map .readRxts else none
  | 0x4A => onNothing t .readFaultcmd
  | _ => none

/-- The command of a transaction, or none where the CMD word is illegal whatever its operand values are:
R80 (a) to (f), class code 3 of (g), and BYTES given to a command other than WRITE_STRING, of (i). ARG bits a
command does not use are ignored (R81). The operand values of (g), (h), (i) are `Instr.wf`'s. -/
def decode (t : Transaction) : Option Instr :=
  if t.op = 0x05 then onBufImm t fun b n => .writeString b n t.bytes
  else if t.bytes = [] then decodePlain t
  else none

/-! ## The FIFO words (R75 to R78) -/

/-- `dw(x) = (zext_16(x) << 1) | TX_DATA_TAG` (R75). -/
def Config.dataWord (cfg : Config) (x : Byte) : Word := x.setWidth 16 <<< 1 ||| cfg.txDataTag

/-- The delay word of n, `CW_DELAY_BASE | zext_16(n)` (R76). -/
def Config.delayWord (cfg : Config) (n : Word) : Word := cfg.cwDelayBase ||| n

/-- `w[lsb+7 : lsb]`. -/
def byteAt (lsb : Nat) (w : Word) : Byte := (w >>> lsb).setWidth 8

/-- `byte_of(b, w)` by the kind of the buffer: `w[8:1]` for TX, `w[RX_BYTE_LSB+7 : RX_BYTE_LSB]` for RX; every
other bit is ignored (R77, R82). -/
def Config.byteOf (cfg : Config) (k : BufKind) (w : Word) : Byte :=
  match k with
  | .tx => byteAt 1 w
  | .rx => byteAt cfg.rxByteLsb w

/-- The model's encoding of a body word of a receive record: byte x in the byte field of R77. DESIGN CHOICE (log
15): the bits outside the byte field, which R77 and R82 leave free, are 0. A decoder ignores them
(`Config.byteOf`). -/
def Config.rxWord (cfg : Config) (x : Byte) : Word := x.setWidth 16 <<< cfg.rxByteLsb

/-- The kind of a word of the TXOUT stream (R86); none where the word is *unclassified*. -/
def decodeTx (cfg : Config) (w : Word) : Option Instr :=
  if cfg.isDataForm w then some (.txDataWord (byteAt 1 w))
  else if w = cfg.cwTrigger then some .txTriggerWord
  else if w = cfg.cwEof then some .txEofWord
  else if w = cfg.cwTimestamp then some .txTimestampWord
  else if cfg.inDelayRange w then some (.txDelayWord (w &&& lowMask cfg.delayArgBits))
  else none

/-- The word at position k of a receive record (R78): the length word, then the timestamp words, then the
body. Every word is one of the three, by its position alone. -/
def decodeRx (cfg : Config) (k : Nat) (w : Word) : Instr :=
  if k = 0 then .rxLengthWord w
  else if k < cfg.hdrWords then .rxTimestampWord w
  else .rxDataWord (cfg.byteOf .rx w)

/-! ## The encoder -/

/-- The CMD word of an instruction (R79, R84). A FIFO word's own 16 bits, zero-extended: what the command
port would see of it (log 1). -/
def Instr.cmd (cfg : Config) : Instr → DWord
  | .writeU8 b _ => cmdWord 0x01 b.code 0 0
  | .writeU16 b _ => cmdWord 0x02 b.code 0 0
  | .writeU32 b _ => cmdWord 0x03 b.code 0 0
  | .writeFloat b _ => cmdWord 0x04 b.code 0 0
  | .writeString b n _ => cmdWord 0x05 b.code 0 n
  | .writeWord b _ => cmdWord 0x06 b.code 0 0
  | .writeCrc b => cmdWord 0x07 b.code 0 0
  | .writeDelay b n => cmdWord 0x08 b.code 0 n
  | .writeTrigger b => cmdWord 0x09 b.code 0 0
  | .markEndOfFrame b => cmdWord 0x0A b.code 0 0
  | .writeTimestamp b => cmdWord 0x0B b.code 0 0
  | .markStartOfFrame b => cmdWord 0x0C b.code 0 0
  | .readU8 b => cmdWord 0x10 b.code 0 0
  | .readU16 b => cmdWord 0x11 b.code 0 0
  | .readU32 b => cmdWord 0x12 b.code 0 0
  | .readFloat b => cmdWord 0x13 b.code 0 0
  | .readString b n => cmdWord 0x14 b.code 0 n
  | .readCrc b => cmdWord 0x15 b.code 0 0
  | .readWord b => cmdWord 0x16 b.code 0 0
  | .getIndex b c => cmdWord 0x20 b.code c.code 0
  | .setIndex b c v => cmdWord 0x21 b.code c.code v
  | .setLength b v => cmdWord 0x22 b.code 0 v
  | .getLength b => cmdWord 0x23 b.code 0 0
  | .clear b => cmdWord 0x24 b.code 0 0
  | .computeCrc16 b st _ => cmdWord 0x25 b.code 0 st
  | .txSend s => cmdWord 0x30 (BufId.code ⟨.tx, s⟩) 0 0
  | .parse code => cmdWord 0x40 code 0 0
  | .verifyResponses => cmdWord 0x41 0 0 0
  | .setExpected c i e => cmdWord 0x42 0 (c.code ++ e) i
  | .getExpected c i => cmdWord 0x43 0 (c.code ++ 0#2) i
  | .clearExpected => cmdWord 0x44 0 0 0
  | .readStatus => cmdWord 0x45 0 0 0
  | .readDevwarn c i => cmdWord 0x46 0 (c.code ++ 0#2) i
  | .readTimeout c i => cmdWord 0x47 0 (c.code ++ 0#2) i
  | .clearWarnings => cmdWord 0x48 0 0 0
  | .readRxts s => cmdWord 0x49 (BufId.code ⟨.rx, s⟩) 0 0
  | .readFaultcmd => cmdWord 0x4A 0 0 0
  | .txDataWord x => (cfg.dataWord x).setWidth 32
  | .txDelayWord n => (cfg.delayWord n).setWidth 32
  | .txTriggerWord => cfg.cwTrigger.setWidth 32
  | .txEofWord => cfg.cwEof.setWidth 32
  | .txTimestampWord => cfg.cwTimestamp.setWidth 32
  | .rxLengthWord l => l.setWidth 32
  | .rxTimestampWord w => w.setWidth 32
  | .rxDataWord x => (cfg.rxWord x).setWidth 32

/-- The ARG word: the value operand, or 0 (R84). -/
def Instr.arg : Instr → DWord
  | .writeU8 _ x => x.setWidth 32
  | .writeU16 _ v | .writeWord _ v => v.setWidth 32
  | .writeU32 _ v | .writeFloat _ v => v
  | .computeCrc16 _ _ n => n.setWidth 32
  | .writeString .. | .writeCrc _ | .writeDelay .. | .writeTrigger _ | .markEndOfFrame _
  | .writeTimestamp _ | .markStartOfFrame _ | .readU8 _ | .readU16 _ | .readU32 _ | .readFloat _
  | .readString .. | .readCrc _ | .readWord _ | .getIndex .. | .setIndex .. | .setLength ..
  | .getLength _ | .clear _ | .txSend _ | .parse _ | .verifyResponses | .setExpected ..
  | .getExpected .. | .clearExpected | .readStatus | .readDevwarn .. | .readTimeout ..
  | .clearWarnings | .readRxts _ | .readFaultcmd | .txDataWord _ | .txDelayWord _
  | .txTriggerWord | .txEofWord | .txTimestampWord | .rxLengthWord _ | .rxTimestampWord _
  | .rxDataWord _ => 0

/-- BYTES: empty except for WRITE_STRING (R70). -/
def Instr.bytes : Instr → List Byte
  | .writeString _ _ xs => xs
  | .writeU8 .. | .writeU16 .. | .writeU32 .. | .writeFloat .. | .writeWord .. | .writeCrc _
  | .writeDelay .. | .writeTrigger _ | .markEndOfFrame _ | .writeTimestamp _
  | .markStartOfFrame _ | .readU8 _ | .readU16 _ | .readU32 _ | .readFloat _ | .readString ..
  | .readCrc _ | .readWord _ | .getIndex .. | .setIndex .. | .setLength .. | .getLength _
  | .clear _ | .computeCrc16 .. | .txSend _ | .parse _ | .verifyResponses | .setExpected ..
  | .getExpected .. | .clearExpected | .readStatus | .readDevwarn .. | .readTimeout ..
  | .clearWarnings | .readRxts _ | .readFaultcmd | .txDataWord _ | .txDelayWord _
  | .txTriggerWord | .txEofWord | .txTimestampWord | .rxLengthWord _ | .rxTimestampWord _
  | .rxDataWord _ => []

/-- The transaction of an instruction (R70, R84). -/
def encode (cfg : Config) (i : Instr) : Transaction := ⟨i.cmd cfg, i.arg, i.bytes⟩

/-- The 16-bit word of a FIFO word format: the low half of what `Instr.cmd` gives it. -/
def fifoWord (cfg : Config) (i : Instr) : Word := (i.cmd cfg).setWidth 16

/-! ## The opcode table's numbering -/

/-- The transaction whose bits, numbered from the least significant bit of CMD, are those of w: CMD, then
ARG. The BYTES of a WRITE_STRING are the `imm` zero bytes that its CMD word asks for; every other command
has none (R83, log 9). -/
def tableTransaction (w : Nat) : Transaction :=
  let cmd := BitVec.ofNat 32 w
  { cmd := cmd
    arg := BitVec.ofNat 32 (w >>> 32)
    bytes :=
      if cmd.extractLsb' 24 8 = 0x05 then List.replicate (cmd.extractLsb' 0 16).toNat 0 else [] }

/-- What the decoder reads from a table row's bits: a 16-bit row is a FIFO word, read as R86 reads the
transmit stream with REFCFG's codes, which are the table's; a wider row is a command. A lone 16-bit word has
no position in a receive record, so it is read as no RX format (log 9). -/
def decodeTableWord (nbits w : Nat) : Option Instr :=
  if nbits ≤ 16 then decodeTx Config.refcfg (BitVec.ofNat 16 w) else decode (tableTransaction w)

end Sys2Proof
end

