-- ==== Sys2Proof/Machine/State.lean ====
section
/-! DEFINITION. The state of the block (10_state.md), as plain data, the reasons a step can stop, and
reset. -/

namespace Sys2Proof.Machine

open Sys2Proof

/-- One value per subnet: SUBWARN[s], RXTS[s], TXOUT[s], and the buffers of each kind (R20, R32, R34, R38). -/
structure PerSubnet (α : Type) where
  s1 : α
  s2 : α
  s3 : α
  s4 : α
  s5 : α
deriving DecidableEq, Repr

/-- One array per device class, indexed by the data index (R28 to R31). -/
structure DevFile (α : Type) where
  fa : List α
  hp : List α
  hm : List α
deriving DecidableEq, Repr

/-- The words of one buffer that have been written, as (index, word) with the indices strictly rising; an
index not listed is *unwritten* (R21). The word is the smallest unit the space addresses (R51, log 7). -/
abbrev Memory := List (Nat × Word)

/-- One frame buffer (R21 to R25). -/
structure Buffer where
  /-- MEM_b -/
  mem : Memory
  /-- WIDX_b -/
  widx : Word
  /-- RIDX_b -/
  ridx : Word
  /-- LEN_b -/
  len : Word
  /-- FSTART_b -/
  fstart : Word
deriving DecidableEq, Repr

/-- PSTATE, the state register of the response-parser FSM (R37, R181). -/
inductive PState where
  | idle | header | body | check | dispatch | exception | decode | done
deriving DecidableEq, Repr

/-- What the host offers the block: a command transaction (R70) or the reset input (R260). -/
inductive Input where
  | command (t : Transaction)
  | reset
deriving DecidableEq, Repr

/-- The state. `cfg`, `inputs` and `draws` are the model's own fields (log 4, 8, 6); every other field is a
state element of 10_state.md. -/
structure State where
  /-- the configuration, fixed for the whole run (R12) -/
  cfg : Config
  /-- what the host offers next, oldest first (R70, R260) -/
  inputs : List Input
  /-- how many free values have been drawn (R65) -/
  draws : Nat
  /-- the buffers TX1 to TX5 (R20) -/
  tx : PerSubnet Buffer
  /-- the buffers RX1 to RX5 (R20) -/
  rx : PerSubnet Buffer
  /-- RESULT (R26) -/
  result : DWord
  /-- RBYTES (R27) -/
  rbytes : List Byte
  /-- EXP (R28) -/
  exp : DevFile (BitVec 2)
  /-- TEL (R29) -/
  tel : DevFile TelRec
  /-- DEVWARN (R30) -/
  devwarn : DevFile (BitVec 6)
  /-- TIMEOUT (R31) -/
  timeout : DevFile Bool
  /-- SUBWARN (R32) -/
  subwarn : PerSubnet (BitVec 4)
  /-- UNKNOWN_SUBNET (R33) -/
  unknownSubnet : Bool
  /-- RXTS, in its low 16·(HDR_WORDS−1) bits (R34, log 11) -/
  rxts : PerSubnet DWord
  /-- FATAL (R35) -/
  fatal : Bool
  /-- FCAUSE (R35) -/
  fcause : BitVec 4
  /-- FCMD (R35) -/
  fcmd : DWord
  /-- PSTATE (R37) -/
  pstate : PState
  /-- TXOUT (R38) -/
  txout : PerSubnet (List Word)
deriving DecidableEq, Repr

/-- Why a step stops with a fault. -/
inductive Fault where
  /-- Raised by `step` alone, when the host offers nothing more and FATAL = 1: "A model treats the fatal
  state as a fault, never a normal final state" (R234). No command raises it. Safe: it only ends a run that
  no command could go on from, log 3. -/
  | endedInFatalState (fcause : BitVec 4)
deriving DecidableEq, Repr

/-- Why a step is refused. -/
inductive Refusal where
  /-- Raised by `exec` for an instruction that has no meaning yet; no arm of this model does. Safe: it only
  stops. -/
  | notModelled (mnemonic : String)
  /-- Raised by `step` alone, at a state whose configuration breaks R12 or R76: "A configuration that breaks
  this is refused at configuration time" (R12). Safe: such a run is not admitted, log 10. -/
  | configurationRefused
deriving DecidableEq, Repr

/-- The same value for every subnet. -/
def PerSubnet.const {α : Type} (a : α) : PerSubnet α := ⟨a, a, a, a, a⟩

/-- An array of N_c copies of one value for every class. -/
def DevFile.const {α : Type} (cfg : Config) (a : α) : DevFile α :=
  ⟨List.replicate (cfg.count .fa) a, List.replicate (cfg.count .hp) a,
    List.replicate (cfg.count .hm) a⟩

/-- A buffer after reset: every cursor 0 and every word unwritten (R42). -/
def Buffer.reset : Buffer := ⟨[], 0, 0, 0, 0⟩

/-- The state right after reset under a configuration (R42, R260), before the host offers anything. -/
def State.resetWith (cfg : Config) : State where
  cfg := cfg
  inputs := []
  draws := 0
  tx := .const .reset
  rx := .const .reset
  result := 0
  rbytes := []
  exp := .const cfg 0
  tel := .const cfg cfg.tel0
  devwarn := .const cfg 0
  timeout := .const cfg false
  subwarn := .const 0
  unknownSubnet := false
  rxts := .const 0
  fatal := false
  fcause := 0
  fcmd := 0
  pstate := .idle
  txout := .const []

/-- The state right after reset, under REFCFG (R13, log 4). -/
def State.reset : State := .resetWith Config.refcfg

end Sys2Proof.Machine
end

