-- ==== Sys2Proof/Machine/Operands.lean ====
section
/-! DEFINITION. How a command reaches its operands: the per-subnet and per-device elements, the words of a
buffer, the byte orders, and the configuration's tables. -/

namespace Sys2Proof.Machine

open Sys2Proof

/-! ## Per-subnet and per-device elements (20_memory.md R50, R52) -/

/-- The element of a subnet. -/
def PerSubnet.get {α : Type} (p : PerSubnet α) : Subnet → α
  | .s1 => p.s1
  | .s2 => p.s2
  | .s3 => p.s3
  | .s4 => p.s4
  | .s5 => p.s5

/-- Replace the element of a subnet. -/
def PerSubnet.set {α : Type} (p : PerSubnet α) (s : Subnet) (a : α) : PerSubnet α :=
  match s with
  | .s1 => { p with s1 := a }
  | .s2 => { p with s2 := a }
  | .s3 => { p with s3 := a }
  | .s4 => { p with s4 := a }
  | .s5 => { p with s5 := a }

/-- The array of a class. -/
def DevFile.file {α : Type} (f : DevFile α) : DevClass → List α
  | .fa => f.fa
  | .hp => f.hp
  | .hm => f.hm

/-- The entry (c, i); `d` is answered past the end of the array, which no legal access reaches (R80 (g),
R12). -/
def DevFile.get {α : Type} (f : DevFile α) (c : DevClass) (i : Nat) (d : α) : α := (f.file c).getD i d

/-- Replace the entry (c, i). -/
def DevFile.set {α : Type} (f : DevFile α) (c : DevClass) (i : Nat) (a : α) : DevFile α :=
  match c with
  | .fa => { f with fa := f.fa.set i a }
  | .hp => { f with hp := f.hp.set i a }
  | .hm => { f with hm := f.hm.set i a }

/-- Apply a function to every entry of every class. -/
def DevFile.map {α β : Type} (f : DevFile α) (g : α → β) : DevFile β :=
  ⟨f.fa.map g, f.hp.map g, f.hm.map g⟩

/-- The buffer b (R20). -/
def State.buf (s : State) (b : BufId) : Buffer :=
  match b.kind with
  | .tx => s.tx.get b.sub
  | .rx => s.rx.get b.sub

/-- Replace the buffer b. -/
def State.setBuf (s : State) (b : BufId) (x : Buffer) : State :=
  match b.kind with
  | .tx => { s with tx := s.tx.set b.sub x }
  | .rx => { s with rx := s.rx.set b.sub x }

/-! ## The words of a buffer (R21, R51, R65) -/

/-- The word at an index, none where it is unwritten. -/
def Memory.word? : Memory → Nat → Option Word
  | [], _ => none
  | (k, w) :: m, i => if k = i then some w else Memory.word? m i

/-- Store one word, keeping the indices strictly rising. -/
def Memory.store : Memory → Nat → Word → Memory
  | [], i, v => [(i, v)]
  | (k, w) :: m, i, v =>
      if i < k then (i, v) :: (k, w) :: m
      else if i = k then (i, v) :: m
      else (k, w) :: Memory.store m i v

/-- Store consecutive words from an index on. -/
def Memory.storeAll : Memory → Nat → List Word → Memory
  | m, _, [] => m
  | m, i, w :: ws => Memory.storeAll (Memory.store m i w) (i + 1) ws

/-- Read one word. An unwritten word is a fresh free value and advances the count of draws (R65). -/
def Memory.read (m : Memory) (i draws : Nat) : Word × Nat :=
  match Memory.word? m i with
  | some w => (w, draws)
  | none => (Config.freeWord draws, draws + 1)

/-- Read n consecutive words in ascending order (R53). -/
def Memory.readAll (m : Memory) (i : Nat) : Nat → Nat → List Word × Nat
  | 0, draws => ([], draws)
  | n + 1, draws =>
      let r := Memory.read m i draws
      let rest := Memory.readAll m (i + 1) n r.2
      (r.1 :: rest.1, rest.2)

/-- The canonical form of a buffer's words: indices strictly rising, all below CAP_WORDS. -/
abbrev Memory.wf (cap : Nat) (m : Memory) : Prop :=
  List.Pairwise (fun a b => a.1 < b.1) m ∧ ∀ c ∈ m, c.1 < cap

/-! ## Byte orders (R16, R54, R55) -/

/-- `U16BE(x0, x1) = x0 ‖ x1`. -/
def u16be (xs : List Byte) : Word := xs.getD 0 0 ++ xs.getD 1 0

/-- `U16LE(x0, x1) = x1 ‖ x0`. -/
def u16le (xs : List Byte) : Word := xs.getD 1 0 ++ xs.getD 0 0

/-- `U32BE(x0 .. x3) = x0 ‖ x1 ‖ x2 ‖ x3`. -/
def u32be (xs : List Byte) : DWord := xs.getD 0 0 ++ xs.getD 1 0 ++ xs.getD 2 0 ++ xs.getD 3 0

/-- The bytes of a 16-bit payload field, most significant first (R55). -/
def bytes16be (v : Word) : List Byte := [v.extractLsb' 8 8, v.extractLsb' 0 8]

/-- The bytes of a 32-bit payload field, most significant first (R55). -/
def bytes32be (v : DWord) : List Byte :=
  [v.extractLsb' 24 8, v.extractLsb' 16 8, v.extractLsb' 8 8, v.extractLsb' 0 8]

/-- The two bytes of a CRC, low byte first (R54, R102). -/
def bytesCrc (c : Word) : List Byte := [c.extractLsb' 0 8, c.extractLsb' 8 8]

/-! ## The configuration's tables (R12, log 13) -/

/-- `DMAP(s, a)`; the inner none is class code 3. -/
def Config.device? (cfg : Config) (s : Subnet) (a : Byte) : Option (Option DevClass × Nat) :=
  (cfg.dmap.find? fun e => e.subnet == s && e.addr == a).map fun e => (e.cls, e.idx)

/-- `SHAPES(c, fc)`. -/
def Config.shape? (cfg : Config) (c : DevClass) (fc : Byte) : Option (Nat × Decoder) :=
  (cfg.shapes.find? fun e => e.cls == c && e.fc == fc).map fun e => (e.len, e.dec)

/-- `EXC_MAP(code)`. -/
def Config.exception? (cfg : Config) (code : Byte) : Option ExcKind :=
  (cfg.excMap.find? fun e => e.1 == code).map (·.2)

/-- `dec(TEL, payload)` (R191). -/
def Decoder.apply (d : Decoder) (old : TelRec) (payload : List Byte) : TelRec :=
  match d with
  | .moves ms => ms.foldl (fun r m => r.set m.1 (payload.getD m.2 0)) old
  | .firmware k => Config.firmwareDecoder k old payload

end Sys2Proof.Machine
end

