-- ==== Sys2Proof/Machine/Flags.lean ====
section
/-! DEFINITION. The warning bits and the STATUS view: everything the block has for flags (R40). -/

namespace Sys2Proof.Machine

open Sys2Proof

/-- The bits of SUBWARN (R32). -/
inductive SubWarning where
  | invalidCrc | invalidLength | unknownAddress | unknownFunction
deriving DecidableEq, Repr

/-- The SUBWARN value with just this bit set (R32). -/
def SubWarning.mask : SubWarning → BitVec 4
  | .invalidCrc => 0x1
  | .invalidLength => 0x2
  | .unknownAddress => 0x4
  | .unknownFunction => 0x8

/-- The bits of DEVWARN (R30). -/
inductive DevWarning where
  | exception (k : ExcKind)
  | unknownException
  | unexpectedResponse
deriving DecidableEq, Repr

/-- The DEVWARN value with just this bit set (R30). -/
def DevWarning.mask : DevWarning → BitVec 6
  | .exception .illegalFunction => 0x01
  | .exception .illegalDataAddress => 0x02
  | .exception .illegalDataValue => 0x04
  | .exception .deviceInvalidLength => 0x08
  | .unknownException => 0x10
  | .unexpectedResponse => 0x20

/-- `SUBWARN[s].w <- 1` (R15, R32). -/
def State.warnSubnet (s : State) (sn : Subnet) (w : SubWarning) : State :=
  { s with subwarn := s.subwarn.set sn (s.subwarn.get sn ||| w.mask) }

/-- `DEVWARN[c][i].w <- 1` (R15, R30). -/
def State.warnDevice (s : State) (c : DevClass) (i : Nat) (w : DevWarning) : State :=
  { s with devwarn := s.devwarn.set c i (s.devwarn.get c i 0 ||| w.mask) }

/-- `STATUS`: SUBWARN[5] ‖ … ‖ SUBWARN[1] ‖ 0b000 ‖ UNKNOWN_SUBNET ‖ FCAUSE ‖ 0b000 ‖ FATAL (R36). -/
def State.status (s : State) : DWord :=
  s.subwarn.s5 ++ s.subwarn.s4 ++ s.subwarn.s3 ++ s.subwarn.s2 ++ s.subwarn.s1 ++ 0#3
    ++ BitVec.ofBool s.unknownSubnet ++ s.fcause ++ 0#3 ++ BitVec.ofBool s.fatal

/-- How many counters are not 0: `cnt` of VERIFY_RESPONSES (R197). -/
def owedCount (e : DevFile (BitVec 2)) : Nat :=
  e.fa.countP (· != 0) + e.hp.countP (· != 0) + e.hm.countP (· != 0)

end Sys2Proof.Machine
end

