-- ==== Sys2Proof/Machine/Ops.lean ====
section
/-! DEFINITION. The operations the meanings share: fatal entry and the checks before a command
(60_exceptions.md), the common write and read steps, and the return registers. -/

namespace Sys2Proof.Machine

open Sys2Proof

/-! ## Fatal faults (R231, R233) -/

/-- The causes of a fatal fault (R231). -/
inductive Cause where
  | bufferOverflow | readPastEnd | unknownDeviceClass | illegalCommand
deriving DecidableEq, Repr

/-- The cause code held in FCAUSE (R231). -/
def Cause.code : Cause → BitVec 4
  | .bufferOverflow => 1
  | .readPastEnd => 2
  | .unknownDeviceClass => 3
  | .illegalCommand => 4

/-- Fatal entry, `raise Fatal(cause)`, for the command word `cmd`: the first fault writes FATAL, FCAUSE and
FCMD, PSTATE goes to P_IDLE, and nothing else changes (R233). There is no return from it (R235). Log 2. -/
def State.raise (s : State) (c : Cause) (cmd : DWord) : State :=
  if s.fatal then { s with pstate := .idle }
  else { s with fatal := true, fcause := c.code, fcmd := cmd, pstate := .idle }

/-- The state of the reset input: every state element at its reset value, the configuration kept (R260). The
inputs still to come and the count of draws are the model's own and go on (log 6, log 8). -/
def State.resetInput (s : State) : State :=
  { State.resetWith s.cfg with inputs := s.inputs, draws := s.draws }

/-! ## The order of checks (R237) -/

/-- The operand values of a command are legal (R80 (g), (h), (i)). -/
def legal (cfg : Config) (i : Instr) : Bool := i.wf cfg

/-- Any command but READ_STATUS and READ_FAULTCMD: refused, changing nothing, in the fatal state (R234); a
fatal fault if its operand values are illegal (R80); else `body`, given the command's CMD word for FCMD. -/
def command (i : Instr) (s : State) (body : DWord → State → State) :
    Host.Outcome State Fault Refusal :=
  if s.fatal then .next s
  else if legal s.cfg i then .next (body (i.cmd s.cfg) s)
  else .next (s.raise .illegalCommand (i.cmd s.cfg))

/-- READ_STATUS and READ_FAULTCMD, which the fatal state accepts too (R234). -/
def statusCommand (s : State) (body : State → State) : Host.Outcome State Fault Refusal :=
  .next (body s)

/-- A CMD word that is no command (R80): refused, changing nothing, in the fatal state; else a fatal fault. -/
def notACommand (cmd : DWord) (s : State) : Host.Outcome State Fault Refusal :=
  if s.fatal then .next s else .next (s.raise .illegalCommand cmd)

/-! ## The return registers (R26, R27) -/

/-- `R <- v`. -/
def State.withResult (s : State) (v : DWord) : State := { s with result := v }

/-! ## The common write step (R120) -/

/-- `wr(b, ws)`: the overflow check covers the whole list, without wrap, before any word is stored. -/
def State.writeWords (s : State) (b : BufId) (ws : List Word) (cmd : DWord) : State :=
  let x := s.buf b
  if x.widx.toNat + ws.length > s.cfg.capWords then s.raise .bufferOverflow cmd
  else
    s.setBuf b
      { x with
        mem := Memory.storeAll x.mem x.widx.toNat ws
        widx := BitVec.ofNat 16 (x.widx.toNat + ws.length) }

/-- `wr(b, [dw(x) for x in xs])`. -/
def State.writeBytes (s : State) (b : BufId) (xs : List Byte) (cmd : DWord) : State :=
  s.writeWords b (xs.map s.cfg.dataWord) cmd

/-! ## The common read step (R160) -/

/-- Read n words at the read cursor and advance it, unless that passes LEN_b; `k` is given the words.
DESIGN CHOICE (log 14): with n = 0 and RIDX_b beyond LEN_b, where R160 and R165's corner case disagree, this
faults, as R160's pseudocode has it. -/
def State.readWords (s : State) (b : BufId) (n : Nat) (cmd : DWord)
    (k : List Word → State → State) : State :=
  let x := s.buf b
  if x.ridx.toNat + n > x.len.toNat then s.raise .readPastEnd cmd
  else
    let r := Memory.readAll x.mem x.ridx.toNat n s.draws
    k r.1 ({ s with draws := r.2 }.setBuf b
      { x with ridx := BitVec.ofNat 16 (x.ridx.toNat + n) })

/-- `rd(b, n)`, the bytes through `byte_of` (R160, R77). -/
def State.readBytes (s : State) (b : BufId) (n : Nat) (cmd : DWord)
    (k : List Byte → State → State) : State :=
  s.readWords b n cmd fun ws => k (ws.map (s.cfg.byteOf b.kind))

/-- The bytes `byte_of(b, MEM_b[i + k])` for k in 0 .. n−1, no cursor moved, and the draws they took (R105,
R128). -/
def State.bytesAt (s : State) (b : BufId) (i n : Nat) : List Byte × Nat :=
  let r := Memory.readAll (s.buf b).mem i n s.draws
  (r.1.map (s.cfg.byteOf b.kind), r.2)

end Sys2Proof.Machine
end

