-- ==== Sys2Proof/Machine/Accounting.lean ====
section
/-! DEFINITION. Response accounting and verification (43_response_parser.md R197 to R200). -/

namespace Sys2Proof.Machine

open Sys2Proof

/-- VERIFY_RESPONSES (R197): TIMEOUT of every device is overwritten, RESULT is the count of devices still
owed, in 32 bits (log 12). -/
def execVerifyResponses (s : State) : Host.Outcome State Fault Refusal :=
  command .verifyResponses s fun _ s =>
    { s with timeout := s.exp.map (· != 0) }.withResult (BitVec.ofNat 32 (owedCount s.exp))

/-- SET_EXPECTED (R198). -/
def execSetExpected (c : DevClass) (i : Word) (e : BitVec 2) (s : State) :
    Host.Outcome State Fault Refusal :=
  command (.setExpected c i e) s fun _ s => { s with exp := s.exp.set c i.toNat e }

/-- GET_EXPECTED (R199). -/
def execGetExpected (c : DevClass) (i : Word) (s : State) : Host.Outcome State Fault Refusal :=
  command (.getExpected c i) s fun _ s => s.withResult ((s.exp.get c i.toNat 0).setWidth 32)

/-- CLEAR_EXPECTED (R200). -/
def execClearExpected (s : State) : Host.Outcome State Fault Refusal :=
  command .clearExpected s fun _ s => { s with exp := s.exp.map fun _ => 0 }

end Sys2Proof.Machine
end

