-- ==== Sys2Proof/Machine/Control.lean ====
section
/-! DEFINITION. The control words and the frame start (41_frame_encoder.md R129 to R133). -/

namespace Sys2Proof.Machine

open Sys2Proof

/-- WRITE_DELAY (R129). -/
def execWriteDelay (b : BufId) (n : Word) (s : State) : Host.Outcome State Fault Refusal :=
  command (.writeDelay b n) s fun cmd s => s.writeWords b [s.cfg.delayWord n] cmd

/-- WRITE_TRIGGER (R130). -/
def execWriteTrigger (b : BufId) (s : State) : Host.Outcome State Fault Refusal :=
  command (.writeTrigger b) s fun cmd s => s.writeWords b [s.cfg.cwTrigger] cmd

/-- MARK_END_OF_FRAME (R131). -/
def execMarkEndOfFrame (b : BufId) (s : State) : Host.Outcome State Fault Refusal :=
  command (.markEndOfFrame b) s fun cmd s => s.writeWords b [s.cfg.cwEof] cmd

/-- WRITE_TIMESTAMP (R132). -/
def execWriteTimestamp (b : BufId) (s : State) : Host.Outcome State Fault Refusal :=
  command (.writeTimestamp b) s fun cmd s => s.writeWords b [s.cfg.cwTimestamp] cmd

/-- MARK_START_OF_FRAME (R133): `FSTART_b <- WIDX_b`, no word written (90_conflicts.md C6). -/
def execMarkStartOfFrame (b : BufId) (s : State) : Host.Outcome State Fault Refusal :=
  command (.markStartOfFrame b) s fun _ s =>
    s.setBuf b { s.buf b with fstart := (s.buf b).widx }

end Sys2Proof.Machine
end

