-- ==== Sys2Proof/Machine/Cursors.lean ====
section
/-! DEFINITION. The cursor and length commands (41_frame_encoder.md R134 to R138) and COMPUTE_CRC16
(40_crc.md R105). -/

namespace Sys2Proof.Machine

open Sys2Proof

/-- The cursor a selector names (R74). -/
def Buffer.cursor (x : Buffer) : Cursor → Word
  | .write => x.widx
  | .read => x.ridx

/-- Replace the cursor a selector names (R74). -/
def Buffer.setCursor (x : Buffer) (c : Cursor) (v : Word) : Buffer :=
  match c with
  | .write => { x with widx := v }
  | .read => { x with ridx := v }

/-- GET_INDEX (R134). -/
def execGetIndex (b : BufId) (sel : Cursor) (s : State) : Host.Outcome State Fault Refusal :=
  command (.getIndex b sel) s fun _ s => s.withResult (((s.buf b).cursor sel).setWidth 32)

/-- SET_INDEX (R135): v may equal CAP_WORDS. -/
def execSetIndex (b : BufId) (sel : Cursor) (v : Word) (s : State) :
    Host.Outcome State Fault Refusal :=
  command (.setIndex b sel v) s fun cmd s =>
    if v.toNat > s.cfg.capWords then s.raise .bufferOverflow cmd
    else s.setBuf b ((s.buf b).setCursor sel v)

/-- SET_LENGTH (R136). -/
def execSetLength (b : BufId) (v : Word) (s : State) : Host.Outcome State Fault Refusal :=
  command (.setLength b v) s fun cmd s =>
    if v.toNat > s.cfg.capWords then s.raise .bufferOverflow cmd
    else s.setBuf b { s.buf b with len := v }

/-- GET_LENGTH (R137). -/
def execGetLength (b : BufId) (s : State) : Host.Outcome State Fault Refusal :=
  command (.getLength b) s fun _ s => s.withResult ((s.buf b).len.setWidth 32)

/-- CLEAR (R138): the cursors, LEN and FSTART to 0; the words keep their values. -/
def execClear (b : BufId) (s : State) : Host.Outcome State Fault Refusal :=
  command (.clear b) s fun _ s =>
    s.setBuf b { s.buf b with widx := 0, ridx := 0, len := 0, fstart := 0 }

/-- COMPUTE_CRC16 (R105): the range is bounded by CAP_WORDS, `start + count` without wrap. -/
def execComputeCrc16 (b : BufId) (start count : Word) (s : State) :
    Host.Outcome State Fault Refusal :=
  command (.computeCrc16 b start count) s fun cmd s =>
    if start.toNat + count.toNat > s.cfg.capWords then s.raise .bufferOverflow cmd
    else
      let r := s.bytesAt b start.toNat count.toNat
      { s with draws := r.2 }.withResult ((crc16 r.1).setWidth 32)

end Sys2Proof.Machine
end

