-- ==== Sys2Proof/Machine/FifoWords.lean ====
section
/-! DEFINITION. The eight FIFO word formats of the opcode table, met on the command port. They are no commands
of 30_encoding.md R79: as a CMD word each has op 0x00, which R80 (a) makes an illegal command (log 1). What
the block does with such words where they belong is in the commands: WRITE_U8 and its family store them
(R75, R76), TX_SEND emits them (R168), PARSE reads them (R77, R78). -/

namespace Sys2Proof.Machine

open Sys2Proof

/-- TX_DATA_WORD as a CMD word (R75, R80 (a)). -/
def execTxDataWord (x : Byte) (s : State) : Host.Outcome State Fault Refusal :=
  notACommand ((Instr.txDataWord x).cmd s.cfg) s

/-- TX_DELAY_WORD as a CMD word (R76, R80 (a)). -/
def execTxDelayWord (n : Word) (s : State) : Host.Outcome State Fault Refusal :=
  notACommand ((Instr.txDelayWord n).cmd s.cfg) s

/-- TX_TRIGGER_WORD as a CMD word (R76, R80 (a)). -/
def execTxTriggerWord (s : State) : Host.Outcome State Fault Refusal :=
  notACommand (Instr.txTriggerWord.cmd s.cfg) s

/-- TX_EOF_WORD as a CMD word (R76, R80 (a)). -/
def execTxEofWord (s : State) : Host.Outcome State Fault Refusal :=
  notACommand (Instr.txEofWord.cmd s.cfg) s

/-- TX_TIMESTAMP_WORD as a CMD word (R76, R80 (a)). -/
def execTxTimestampWord (s : State) : Host.Outcome State Fault Refusal :=
  notACommand (Instr.txTimestampWord.cmd s.cfg) s

/-- RX_LENGTH_WORD as a CMD word (R78, R80 (a)). -/
def execRxLengthWord (len : Word) (s : State) : Host.Outcome State Fault Refusal :=
  notACommand ((Instr.rxLengthWord len).cmd s.cfg) s

/-- RX_TIMESTAMP_WORD as a CMD word (R78, R80 (a)). -/
def execRxTimestampWord (ts : Word) (s : State) : Host.Outcome State Fault Refusal :=
  notACommand ((Instr.rxTimestampWord ts).cmd s.cfg) s

/-- RX_DATA_WORD as a CMD word (R77, R80 (a)). -/
def execRxDataWord (x : Byte) (s : State) : Host.Outcome State Fault Refusal :=
  notACommand ((Instr.rxDataWord x).cmd s.cfg) s

end Sys2Proof.Machine
end

