-- ==== Sys2Proof/Machine/Parser.lean ====
section
/-! DEFINITION. The response-parser FSM (43_response_parser.md R180 to R193): one function per state, one
transition function, and the run of one PARSE. -/

namespace Sys2Proof.Machine

open Sys2Proof

/-- The local variables of one PARSE (R180): the next word p, the end n, the declared length L, the frame
bytes B, the device (c, i), and the decoder that P_DISPATCH found. -/
structure ParseVars where
  p : Nat
  n : Nat
  len : Nat
  body : List Byte
  cls : DevClass
  idx : Nat
  dec : Decoder
deriving DecidableEq, Repr

/-- `a ‖ b ‖ …` of the timestamp words, the first the most significant (R78, R182). -/
def timestamp (ws : List Word) : DWord := ws.foldl (fun a w => a <<< 16 ||| w.setWidth 32) 0

/-- The PSTATE transition. -/
def State.goto (s : State) (q : PState) : State := { s with pstate := q }

/-- A record skipped with a subnet warning: on to the next header (R184, R185, R186, R188, R189, R190). -/
def skipRecord (sn : Subnet) (w : SubWarning) (v : ParseVars) (s : State) : ParseVars × State :=
  (v, (s.warnSubnet sn w).goto .header)

/-- A truncated header or body: INVALID_LENGTH, and the parse ends at n (R182, R183). -/
def endTruncated (sn : Subnet) (v : ParseVars) (s : State) : ParseVars × State :=
  ({ v with p := v.n }, (s.warnSubnet sn .invalidLength).goto .done)

/-- `account(c, i)` (R192). -/
def State.account (s : State) (c : DevClass) (i : Nat) : State :=
  if s.exp.get c i 0 = 0 then s.warnDevice c i .unexpectedResponse
  else { s with exp := s.exp.set c i (s.exp.get c i 0 - 1) }

/-- P_HEADER (R182). -/
def parseHeader (sn : Subnet) (v : ParseVars) (s : State) : ParseVars × State :=
  if v.n ≤ v.p then (v, s.goto .done)
  else if v.n - v.p < s.cfg.hdrWords then endTruncated sn v s
  else
    let r := Memory.readAll (s.rx.get sn).mem v.p s.cfg.hdrWords s.draws
    let ts := if 1 < s.cfg.hdrWords then s.rxts.set sn (timestamp r.1.tail) else s.rxts
    ({ v with len := (r.1.headD 0).toNat, p := v.p + s.cfg.hdrWords },
      { s with draws := r.2, rxts := ts, pstate := .body })

/-- P_BODY (R183). -/
def parseBody (sn : Subnet) (v : ParseVars) (s : State) : ParseVars × State :=
  if v.n - v.p < v.len then endTruncated sn v s
  else
    let r := Memory.readAll (s.rx.get sn).mem v.p v.len s.draws
    ({ v with body := r.1.map (s.cfg.byteOf .rx), p := v.p + v.len },
      { s with draws := r.2, pstate := .check })

/-- `crc16(B[0 .. L−3]) == U16LE(B[L−2], B[L−1])` (R103, R185). -/
def crcOk (xs : List Byte) : Bool :=
  crc16 (xs.take (xs.length - 2)) == u16le (xs.drop (xs.length - 2))

/-- P_CHECK: the minimum length, then the CRC (R184, R185). -/
def parseCheck (sn : Subnet) (v : ParseVars) (s : State) : ParseVars × State :=
  if v.len < 4 then skipRecord sn .invalidLength v s
  else if crcOk v.body then (v, s.goto .dispatch)
  else skipRecord sn .invalidCrc v s

/-- P_DISPATCH: address, class, exception test, shape, shape length (R186 to R190). -/
def parseDispatch (sn : Subnet) (cmd : DWord) (v : ParseVars) (s : State) : ParseVars × State :=
  match Config.device? s.cfg sn (v.body.getD 0 0) with
  | none => skipRecord sn .unknownAddress v s
  | some (none, _) => (v, s.raise .unknownDeviceClass cmd)
  | some (some c, i) =>
      if (v.body.getD 1 0).getLsbD 7 then ({ v with cls := c, idx := i }, s.goto .exception)
      else
        match Config.shape? s.cfg c (v.body.getD 1 0) with
        | none => skipRecord sn .unknownFunction v s
        | some (len, dec) =>
            if v.len = len then ({ v with cls := c, idx := i, dec := dec }, s.goto .decode)
            else skipRecord sn .invalidLength v s

/-- The DEVWARN bit of an exception code (R188). -/
def Config.excWarning (cfg : Config) (code : Byte) : DevWarning :=
  match Config.exception? cfg code with
  | some k => .exception k
  | none => .unknownException

/-- P_EXCEPTION (R188). -/
def parseException (sn : Subnet) (v : ParseVars) (s : State) : ParseVars × State :=
  if v.len = 5 then
    let w := Config.excWarning s.cfg (v.body.getD 2 0)
    (v, ((s.warnDevice v.cls v.idx w).account v.cls v.idx).goto .header)
  else skipRecord sn .invalidLength v s

/-- The payload `B[2 .. L−3]` (R191). -/
def payload (xs : List Byte) : List Byte := (xs.take (xs.length - 2)).drop 2

/-- P_DECODE (R191). -/
def parseDecode (v : ParseVars) (s : State) : ParseVars × State :=
  let old := s.tel.get v.cls v.idx s.cfg.tel0
  let new := Decoder.apply v.dec old (payload v.body)
  (v, (({ s with tel := s.tel.set v.cls v.idx new }).account v.cls v.idx).goto .header)

/-- P_DONE (R193). -/
def parseDone (sn : Subnet) (v : ParseVars) (s : State) : ParseVars × State :=
  (v, (s.setBuf ⟨.rx, sn⟩ { s.rx.get sn with ridx := BitVec.ofNat 16 v.p }).goto .idle)

/-- One transition of the FSM, by PSTATE (R181). P_IDLE is left only by PARSE itself. -/
def parseStep (sn : Subnet) (cmd : DWord) (x : ParseVars × State) : ParseVars × State :=
  match x.2.pstate with
  | .idle => x
  | .header => parseHeader sn x.1 x.2
  | .body => parseBody sn x.1 x.2
  | .check => parseCheck sn x.1 x.2
  | .dispatch => parseDispatch sn cmd x.1 x.2
  | .exception => parseException sn x.1 x.2
  | .decode => parseDecode x.1 x.2
  | .done => parseDone sn x.1 x.2

/-- Transitions until the FSM is back in P_IDLE, at most the given number. -/
def parseRun (sn : Subnet) (cmd : DWord) : Nat → ParseVars × State → ParseVars × State
  | 0, x => x
  | k + 1, x => if x.2.pstate = .idle then x else parseRun sn cmd k (parseStep sn cmd x)

/-- Where one PARSE starts: p <- RIDX_b, n <- LEN_b (R180). -/
def parseStart (sn : Subnet) (s : State) : ParseVars × State :=
  ({ p := (s.rx.get sn).ridx.toNat, n := (s.rx.get sn).len.toNat, len := 0, body := [],
     cls := .fa, idx := 0, dec := .moves [] }, s.goto .header)

/-- Enough transitions for every PARSE: at most five for each header word consumed, and the last header and
P_DONE (R194). -/
def parseFuel (v : ParseVars) : Nat := 5 * (v.n - v.p) + 3

/-- One PARSE of the receive buffer of a subnet, from P_HEADER to P_IDLE (R180, R181). -/
def State.parse (s : State) (sn : Subnet) (cmd : DWord) : State :=
  (parseRun sn cmd (parseFuel (parseStart sn s).1) (parseStart sn s)).2

end Sys2Proof.Machine
end

