-- ==== Sys2Proof/Machine/Parse.lean ====
section
/-! DEFINITION. PARSE (43_response_parser.md R180, R195). -/

namespace Sys2Proof.Machine

open Sys2Proof

/-- PARSE: the FSM over a receive buffer (R180); a code that is not RX1 to RX5 sets UNKNOWN_SUBNET and does
nothing else (R195). -/
def execParse (code : BitVec 4) (s : State) : Host.Outcome State Fault Refusal :=
  command (.parse code) s fun cmd s =>
    match rxOfCode code with
    | some sn => s.parse sn cmd
    | none => { s with unknownSubnet := true }

end Sys2Proof.Machine
end

