-- ==== Sys2Proof/Machine/Read.lean ====
section
/-! DEFINITION. The typed reads (42_frame_decoder.md R161 to R167). -/

namespace Sys2Proof.Machine

open Sys2Proof

/-- READ_U8 (R161). -/
def execReadU8 (b : BufId) (s : State) : Host.Outcome State Fault Refusal :=
  command (.readU8 b) s fun cmd s =>
    s.readBytes b 1 cmd fun xs t => t.withResult ((xs.getD 0 0).setWidth 32)

/-- READ_U16 (R162): most significant byte first. -/
def execReadU16 (b : BufId) (s : State) : Host.Outcome State Fault Refusal :=
  command (.readU16 b) s fun cmd s =>
    s.readBytes b 2 cmd fun xs t => t.withResult ((u16be xs).setWidth 32)

/-- READ_U32 (R163): most significant byte first. -/
def execReadU32 (b : BufId) (s : State) : Host.Outcome State Fault Refusal :=
  command (.readU32 b) s fun cmd s => s.readBytes b 4 cmd fun xs t => t.withResult (u32be xs)

/-- READ_FLOAT (R164): the 32-bit pattern, not interpreted. -/
def execReadFloat (b : BufId) (s : State) : Host.Outcome State Fault Refusal :=
  command (.readFloat b) s fun cmd s => s.readBytes b 4 cmd fun xs t => t.withResult (u32be xs)

/-- READ_STRING (R165): the bytes go to RBYTES. DESIGN CHOICE (log 14): of no byte, with RIDX_b beyond LEN_b, it is
READ_PAST_END, by R160 and R165's Exceptions line and against R165's corner case. -/
def execReadString (b : BufId) (n : Word) (s : State) : Host.Outcome State Fault Refusal :=
  command (.readString b n) s fun cmd s =>
    s.readBytes b n.toNat cmd fun xs t => { t with rbytes := xs }

/-- READ_CRC (R166): low byte first. -/
def execReadCrc (b : BufId) (s : State) : Host.Outcome State Fault Refusal :=
  command (.readCrc b) s fun cmd s =>
    s.readBytes b 2 cmd fun xs t => t.withResult ((u16le xs).setWidth 32)

/-- READ_WORD (R167): the raw word. -/
def execReadWord (b : BufId) (s : State) : Host.Outcome State Fault Refusal :=
  command (.readWord b) s fun cmd s =>
    s.readWords b 1 cmd fun ws t => t.withResult ((ws.getD 0 0).setWidth 32)

end Sys2Proof.Machine
end

