-- ==== Sys2Proof/Machine/Registers.lean ====
section
/-! DEFINITION. Warning and fault register access (43_response_parser.md R201 to R206). -/

namespace Sys2Proof.Machine

open Sys2Proof

/-- READ_STATUS (R201), accepted in the fatal state (R234). -/
def execReadStatus (s : State) : Host.Outcome State Fault Refusal :=
  statusCommand s fun s => s.withResult s.status

/-- READ_DEVWARN (R202). -/
def execReadDevwarn (c : DevClass) (i : Word) (s : State) : Host.Outcome State Fault Refusal :=
  command (.readDevwarn c i) s fun _ s => s.withResult ((s.devwarn.get c i.toNat 0).setWidth 32)

/-- READ_TIMEOUT (R203). -/
def execReadTimeout (c : DevClass) (i : Word) (s : State) : Host.Outcome State Fault Refusal :=
  command (.readTimeout c i) s fun _ s =>
    s.withResult ((BitVec.ofBool (s.timeout.get c i.toNat false)).setWidth 32)

/-- CLEAR_WARNINGS (R204): SUBWARN, UNKNOWN_SUBNET and DEVWARN to 0, nothing else. -/
def execClearWarnings (s : State) : Host.Outcome State Fault Refusal :=
  command .clearWarnings s fun _ s =>
    { s with subwarn := .const 0, unknownSubnet := false, devwarn := s.devwarn.map fun _ => 0 }

/-- READ_RXTS (R205). -/
def execReadRxts (sub : Subnet) (s : State) : Host.Outcome State Fault Refusal :=
  command (.readRxts sub) s fun _ s => s.withResult (s.rxts.get sub)

/-- READ_FAULTCMD (R206), accepted in the fatal state (R234). -/
def execReadFaultcmd (s : State) : Host.Outcome State Fault Refusal :=
  statusCommand s fun s => s.withResult s.fcmd

end Sys2Proof.Machine
end

