-- ==== Sys2Proof/Machine/Transmit.lean ====
section
/-! DEFINITION. TX_SEND (42_frame_decoder.md R168). -/

namespace Sys2Proof.Machine

open Sys2Proof

/-- The words TX_SEND emits, MEM_b[0 .. LEN_b−1] in ascending order (R53, R168), and the draws they took. -/
def State.sentWords (s : State) (sn : Subnet) : List Word × Nat :=
  Memory.readAll (s.tx.get sn).mem 0 (s.tx.get sn).len.toNat s.draws

/-- TX_SEND (R168): a snapshot of the buffer, appended to TXOUT of its subnet (R64). -/
def execTxSend (sub : Subnet) (s : State) : Host.Outcome State Fault Refusal :=
  command (.txSend sub) s fun _ s =>
    { s with
      draws := (s.sentWords sub).2
      txout := s.txout.set sub (s.txout.get sub ++ (s.sentWords sub).1) }

end Sys2Proof.Machine
end

