-- ==== Sys2Proof/Machine/Write.lean ====
section
/-! DEFINITION. The typed writes (41_frame_encoder.md R122 to R128). -/

namespace Sys2Proof.Machine

open Sys2Proof

/-- WRITE_U8 (R122): `wr(b, [dw(x)])`. -/
def execWriteU8 (b : BufId) (x : Byte) (s : State) : Host.Outcome State Fault Refusal :=
  command (.writeU8 b x) s fun cmd s => s.writeBytes b [x] cmd

/-- WRITE_U16 (R123): most significant byte first. -/
def execWriteU16 (b : BufId) (v : Word) (s : State) : Host.Outcome State Fault Refusal :=
  command (.writeU16 b v) s fun cmd s => s.writeBytes b (bytes16be v) cmd

/-- WRITE_U32 (R124): most significant byte first. -/
def execWriteU32 (b : BufId) (v : DWord) (s : State) : Host.Outcome State Fault Refusal :=
  command (.writeU32 b v) s fun cmd s => s.writeBytes b (bytes32be v) cmd

/-- WRITE_FLOAT (R125): the 32-bit pattern, moved unchanged. -/
def execWriteFloat (b : BufId) (v : DWord) (s : State) : Host.Outcome State Fault Refusal :=
  command (.writeFloat b v) s fun cmd s => s.writeBytes b (bytes32be v) cmd

/-- WRITE_STRING (R126): the raw BYTES, no prefix, no terminator. -/
def execWriteString (b : BufId) (n : Word) (bytes : List Byte) (s : State) :
    Host.Outcome State Fault Refusal :=
  command (.writeString b n bytes) s fun cmd s => s.writeBytes b bytes cmd

/-- WRITE_WORD (R127): the raw word. -/
def execWriteWord (b : BufId) (w : Word) (s : State) : Host.Outcome State Fault Refusal :=
  command (.writeWord b w) s fun cmd s => s.writeWords b [w] cmd

/-- The bytes WRITE_CRC covers: those of the words FSTART_b .. WIDX_b−1, none if FSTART_b >= WIDX_b (R128);
with the draws they took. -/
def State.frameBytes (s : State) (b : BufId) : List Byte × Nat :=
  s.bytesAt b (s.buf b).fstart.toNat ((s.buf b).widx.toNat - (s.buf b).fstart.toNat)

/-- WRITE_CRC (R128): the CRC of the frame so far, low byte first. An overflow changes nothing else, so it
takes no draw either (R233). -/
def execWriteCrc (b : BufId) (s : State) : Host.Outcome State Fault Refusal :=
  command (.writeCrc b) s fun cmd s =>
    if (s.buf b).widx.toNat + 2 > s.cfg.capWords then s.raise .bufferOverflow cmd
    else
      { s with draws := (s.frameBytes b).2 }.writeBytes b (bytesCrc (crc16 (s.frameBytes b).1)) cmd

end Sys2Proof.Machine
end

