-- ==== Sys2Proof/Machine/Dispatch.lean ====
section
/-! DEFINITION. One arm per instruction. -/

namespace Sys2Proof.Machine

open Sys2Proof

def exec (i : Instr) (s : State) : Host.Outcome State Fault Refusal :=
  match i with
  | .writeU8 b x => Sys2Proof.Machine.execWriteU8 b x s
  | .writeU16 b v => Sys2Proof.Machine.execWriteU16 b v s
  | .writeU32 b v => Sys2Proof.Machine.execWriteU32 b v s
  | .writeFloat b v => Sys2Proof.Machine.execWriteFloat b v s
  | .writeString b n bytes => Sys2Proof.Machine.execWriteString b n bytes s
  | .writeWord b w => Sys2Proof.Machine.execWriteWord b w s
  | .writeCrc b => Sys2Proof.Machine.execWriteCrc b s
  | .writeDelay b n => Sys2Proof.Machine.execWriteDelay b n s
  | .writeTrigger b => Sys2Proof.Machine.execWriteTrigger b s
  | .markEndOfFrame b => Sys2Proof.Machine.execMarkEndOfFrame b s
  | .writeTimestamp b => Sys2Proof.Machine.execWriteTimestamp b s
  | .markStartOfFrame b => Sys2Proof.Machine.execMarkStartOfFrame b s
  | .readU8 b => Sys2Proof.Machine.execReadU8 b s
  | .readU16 b => Sys2Proof.Machine.execReadU16 b s
  | .readU32 b => Sys2Proof.Machine.execReadU32 b s
  | .readFloat b => Sys2Proof.Machine.execReadFloat b s
  | .readString b n => Sys2Proof.Machine.execReadString b n s
  | .readCrc b => Sys2Proof.Machine.execReadCrc b s
  | .readWord b => Sys2Proof.Machine.execReadWord b s
  | .getIndex b sel => Sys2Proof.Machine.execGetIndex b sel s
  | .setIndex b sel v => Sys2Proof.Machine.execSetIndex b sel v s
  | .setLength b v => Sys2Proof.Machine.execSetLength b v s
  | .getLength b => Sys2Proof.Machine.execGetLength b s
  | .clear b => Sys2Proof.Machine.execClear b s
  | .computeCrc16 b start count => Sys2Proof.Machine.execComputeCrc16 b start count s
  | .txSend sub => Sys2Proof.Machine.execTxSend sub s
  | .parse code => Sys2Proof.Machine.execParse code s
  | .verifyResponses => Sys2Proof.Machine.execVerifyResponses s
  | .setExpected c idx e => Sys2Proof.Machine.execSetExpected c idx e s
  | .getExpected c idx => Sys2Proof.Machine.execGetExpected c idx s
  | .clearExpected => Sys2Proof.Machine.execClearExpected s
  | .readStatus => Sys2Proof.Machine.execReadStatus s
  | .readDevwarn c idx => Sys2Proof.Machine.execReadDevwarn c idx s
  | .readTimeout c idx => Sys2Proof.Machine.execReadTimeout c idx s
  | .clearWarnings => Sys2Proof.Machine.execClearWarnings s
  | .readRxts sub => Sys2Proof.Machine.execReadRxts sub s
  | .readFaultcmd => Sys2Proof.Machine.execReadFaultcmd s
  | .txDataWord x => Sys2Proof.Machine.execTxDataWord x s
  | .txDelayWord n => Sys2Proof.Machine.execTxDelayWord n s
  | .txTriggerWord => Sys2Proof.Machine.execTxTriggerWord s
  | .txEofWord => Sys2Proof.Machine.execTxEofWord s
  | .txTimestampWord => Sys2Proof.Machine.execTxTimestampWord s
  | .rxLengthWord len => Sys2Proof.Machine.execRxLengthWord len s
  | .rxTimestampWord ts => Sys2Proof.Machine.execRxTimestampWord ts s
  | .rxDataWord x => Sys2Proof.Machine.execRxDataWord x s

end Sys2Proof.Machine
end

