-- ==== Sys2Proof/Machine/Port.lean ====
section
/-! DEFINITION. The host command port: what one input does (30_encoding.md R70, R80, 60_exceptions.md R237,
70_reset_and_hazards.md R260). -/

namespace Sys2Proof.Machine

open Sys2Proof

/-- One command transaction: decode it, and run the command or reject the CMD word (R80, R237). -/
def State.runTransaction (s : State) (t : Transaction) : Host.Outcome State Fault Refusal :=
  match decode t with
  | some i => exec i s
  | none => notACommand t.cmd s

/-- One input of the host. -/
def State.runInput (s : State) : Input → Host.Outcome State Fault Refusal
  | .command t => s.runTransaction t
  | .reset => .next s.resetInput

/-- The host offers nothing: the block waits and nothing changes; in the fatal state the run has ended in a
fault (R234, log 3). -/
def State.noInput (s : State) : Host.Outcome State Fault Refusal :=
  if s.fatal then .fault (.endedInFatalState s.fcause) else .next s

/-- Take the oldest input and run it. -/
def State.takeInput (s : State) : Host.Outcome State Fault Refusal :=
  match s.inputs with
  | [] => s.noInput
  | x :: rest => { s with inputs := rest }.runInput x

/-- Offer a transaction before everything the host has offered so far. -/
def State.offer (s : State) (t : Transaction) : State := { s with inputs := .command t :: s.inputs }

end Sys2Proof.Machine
end

