-- ==== Sys2Proof/Machine/Step.lean ====
section
/-! DEFINITION. One step of the machine: one input of the host (00_scope.md R7, 20_memory.md R59, R62). -/

namespace Sys2Proof.Machine

open Sys2Proof

/-- One step takes the oldest input the host offers and runs it to its end. A state whose configuration the
spec does not admit is refused (R12, log 10). -/
def step (s : State) : Host.Outcome State Fault Refusal :=
  if s.cfg.wf then s.takeInput else .refused .configurationRefused

/-- s with the transaction of a table row's bits offered next (log 9): the very next step runs it. -/
def State.withFetchWord (s : State) (_nbits w : Nat) : State := s.offer (tableTransaction w)

end Sys2Proof.Machine
end

