-- ==== Sys2Proof/Machine/Assembler.lean ====
section
/-! DEFINITION. The assembler syntax (30_encoding.md R84) and the pseudo-instructions (R85). None of it exists
in the block: it is shorthand for writing command sequences. -/

namespace Sys2Proof.Machine

open Sys2Proof

/-- `TX1` .. `TX5`, `RX1` .. `RX5` (R84). -/
def BufId.asm (b : BufId) : String :=
  (match b.kind with
    | .tx => "TX"
    | .rx => "RX")
  ++ (match b.sub with
    | .s1 => "1"
    | .s2 => "2"
    | .s3 => "3"
    | .s4 => "4"
    | .s5 => "5")

/-- `W` or `R` (R84). -/
def Cursor.asm : Cursor → String
  | .write => "W"
  | .read => "R"

/-- `FA`, `HP` or `HM` (R84). -/
def DevClass.asm : DevClass → String
  | .fa => "FA"
  | .hp => "HP"
  | .hm => "HM"

/-- A literal (R84), in decimal. -/
def lit {n : Nat} (v : BitVec n) : String := toString v.toNat

/-- `MNEMONIC operands`, the operands separated by commas (R84). -/
def line (mnemonic : String) (operands : List String) : String :=
  if operands.isEmpty then mnemonic else mnemonic ++ " " ++ ", ".intercalate operands

/-- A bracketed byte list (R84). -/
def byteList (xs : List Byte) : String := "[" ++ ", ".intercalate (xs.map lit) ++ "]"

/-- The `buf` code of a PARSE as an operand: the buffer's name, or the bare code where it is reserved. -/
def parseOperand (code : BitVec 4) : String :=
  let names := ["TX1", "TX2", "TX3", "TX4", "TX5", "5", "6", "7",
    "RX1", "RX2", "RX3", "RX4", "RX5", "13", "14", "15"]
  names.getD code.toNat ""

/-- The assembler line of an instruction (R84); a FIFO word format is written as its mnemonic and value. -/
def Instr.asm : Instr → String
  | .writeU8 b x => line "WRITE_U8" [BufId.asm b, lit x]
  | .writeU16 b v => line "WRITE_U16" [BufId.asm b, lit v]
  | .writeU32 b v => line "WRITE_U32" [BufId.asm b, lit v]
  | .writeFloat b v => line "WRITE_FLOAT" [BufId.asm b, lit v]
  | .writeString b _ xs => line "WRITE_STRING" [BufId.asm b, byteList xs]
  | .writeWord b w => line "WRITE_WORD" [BufId.asm b, lit w]
  | .writeCrc b => line "WRITE_CRC" [BufId.asm b]
  | .writeDelay b n => line "WRITE_DELAY" [BufId.asm b, lit n]
  | .writeTrigger b => line "WRITE_TRIGGER" [BufId.asm b]
  | .markEndOfFrame b => line "MARK_END_OF_FRAME" [BufId.asm b]
  | .writeTimestamp b => line "WRITE_TIMESTAMP" [BufId.asm b]
  | .markStartOfFrame b => line "MARK_START_OF_FRAME" [BufId.asm b]
  | .readU8 b => line "READ_U8" [BufId.asm b]
  | .readU16 b => line "READ_U16" [BufId.asm b]
  | .readU32 b => line "READ_U32" [BufId.asm b]
  | .readFloat b => line "READ_FLOAT" [BufId.asm b]
  | .readString b n => line "READ_STRING" [BufId.asm b, lit n]
  | .readCrc b => line "READ_CRC" [BufId.asm b]
  | .readWord b => line "READ_WORD" [BufId.asm b]
  | .getIndex b c => line "GET_INDEX" [BufId.asm b, Cursor.asm c]
  | .setIndex b c v => line "SET_INDEX" [BufId.asm b, Cursor.asm c, lit v]
  | .setLength b v => line "SET_LENGTH" [BufId.asm b, lit v]
  | .getLength b => line "GET_LENGTH" [BufId.asm b]
  | .clear b => line "CLEAR" [BufId.asm b]
  | .computeCrc16 b st n => line "COMPUTE_CRC16" [BufId.asm b, lit st, lit n]
  | .txSend s => line "TX_SEND" [BufId.asm ⟨.tx, s⟩]
  | .parse code => line "PARSE" [parseOperand code]
  | .verifyResponses => line "VERIFY_RESPONSES" []
  | .setExpected c i e => line "SET_EXPECTED" [DevClass.asm c, lit i, lit e]
  | .getExpected c i => line "GET_EXPECTED" [DevClass.asm c, lit i]
  | .clearExpected => line "CLEAR_EXPECTED" []
  | .readStatus => line "READ_STATUS" []
  | .readDevwarn c i => line "READ_DEVWARN" [DevClass.asm c, lit i]
  | .readTimeout c i => line "READ_TIMEOUT" [DevClass.asm c, lit i]
  | .clearWarnings => line "CLEAR_WARNINGS" []
  | .readRxts s => line "READ_RXTS" [BufId.asm ⟨.rx, s⟩]
  | .readFaultcmd => line "READ_FAULTCMD" []
  | .txDataWord x => line "TX_DATA_WORD" [lit x]
  | .txDelayWord n => line "TX_DELAY_WORD" [lit n]
  | .txTriggerWord => line "TX_TRIGGER_WORD" []
  | .txEofWord => line "TX_EOF_WORD" []
  | .txTimestampWord => line "TX_TIMESTAMP_WORD" []
  | .rxLengthWord l => line "RX_LENGTH_WORD" [lit l]
  | .rxTimestampWord w => line "RX_TIMESTAMP_WORD" [lit w]
  | .rxDataWord x => line "RX_DATA_WORD" [lit x]

/-- `FRAME b, [x0, …]` (R85). -/
def pseudoFrame (b : BufId) (xs : List Byte) : List Instr :=
  .markStartOfFrame b :: xs.map (.writeU8 b) ++ [.writeCrc b, .markEndOfFrame b]

/-- `LOAD_RX b, [w0, …]` (R85). -/
def pseudoLoadRx (b : BufId) (ws : List Word) : List Instr :=
  .clear b :: ws.map (.writeWord b) ++ [.setLength b (BitVec.ofNat 16 ws.length)]

/-- The second command of `FINISH b`, after `GET_INDEX b, W`: the host substitutes `v = RESULT[15:0]` (R85). -/
def pseudoFinish (b : BufId) (result : DWord) : Instr := .setLength b (result.extractLsb' 0 16)

end Sys2Proof.Machine
end

