-- ==== Sys2Proof/Safety.lean ====
section
/-! DEFINITION. The terms the statements use: the invariant of the block's state, the host hazards that are
properties of a state, R79's table and R80's illegal commands written as the spec lists them, what a write
command stores, the frame outcomes of R196, and well-formed receive records. Nothing here is called by the
machine. -/

namespace Sys2Proof.Machine

open Sys2Proof

/-! ## Fatal state and invariant -/

/-- The block has taken no fatal fault (R35): the only safe states (R234). -/
abbrev State.Safe (s : State) : Prop := s.fatal = false

/-- A buffer is as 10_state.md R21 to R25 say: canonical words below CAP_WORDS, and every cursor in
0 .. CAP_WORDS. -/
structure Buffer.Ok (cap : Nat) (x : Buffer) : Prop where
  mem : Memory.wf cap x.mem
  widx : x.widx.toNat ≤ cap
  ridx : x.ridx.toNat ≤ cap
  len : x.len.toNat ≤ cap
  fstart : x.fstart.toNat ≤ cap

/-- A per-device file has N_c entries for every class c (R28 to R31). -/
def DevFile.Sized {α : Type} (cfg : Config) (f : DevFile α) : Prop :=
  ∀ c, (f.file c).length = cfg.count c

/-- The invariant of the block's state. -/
structure State.Inv (s : State) : Prop where
  /-- the configuration is one the spec admits (R12, R76) -/
  cfg : s.cfg.wf = true
  /-- every buffer holds legal words and cursors (R21 to R25) -/
  buf : ∀ b, (s.buf b).Ok s.cfg.capWords
  /-- the device files have one entry for every device (R28 to R31) -/
  exp : s.exp.Sized s.cfg
  tel : s.tel.Sized s.cfg
  devwarn : s.devwarn.Sized s.cfg
  timeout : s.timeout.Sized s.cfg
  /-- RXTS[s] fits its 16·(HDR_WORDS−1) bits (R34) -/
  rxts : ∀ sn, (s.rxts.get sn).toNat < 2 ^ (16 * (s.cfg.hdrWords - 1))
  /-- PSTATE is P_IDLE between commands (R37) -/
  pstate : s.pstate = .idle
  /-- before a fatal fault FCAUSE and FCMD are 0 (R35) -/
  noFault : s.fatal = false → s.fcause = 0 ∧ s.fcmd = 0
  /-- after one FCAUSE is a cause code of R231 -/
  fault : s.fatal = true → 1 ≤ s.fcause.toNat ∧ s.fcause.toNat ≤ 4

/-! ## Reading one word, and hazards -/

/-- The model's read of one word of MEM_b, none where it is unwritten (R21). -/
def State.word? (s : State) (b : BufId) (k : Nat) : Option Word := Memory.word? (s.buf b).mem k

/-- The words ws stand in MEM_b from index i on. -/
def State.Holds (s : State) (b : BufId) (i : Nat) (ws : List Word) : Prop :=
  ∀ k, k < ws.length → s.word? b (i + k) = ws[k]?

/-- The words i .. i+n−1 of MEM_b have been written: what R265 asks of the host before a send or a read. -/
def State.Written (s : State) (b : BufId) (i n : Nat) : Prop :=
  ∀ k, k < n → (s.word? b (i + k)).isSome = true

/-- LEN_b is the write position: what R264 asks of the host at a TX_SEND. -/
abbrev State.LengthRecorded (s : State) (b : BufId) : Prop := (s.buf b).len = (s.buf b).widx

/-- Every word from FSTART_b to WIDX_b is a data word: what R267 asks of the host at a WRITE_CRC. -/
def State.FrameIsData (s : State) (b : BufId) : Prop :=
  ∀ k, (s.buf b).fstart.toNat ≤ k → k < (s.buf b).widx.toNat →
    ∃ x, s.word? b k = some (s.cfg.dataWord x)

/-- t differs from s at most in the buffers. -/
def SameButBuffers (s t : State) : Prop := t = { s with tx := t.tx, rx := t.rx }

/-- t and s have the same buffers but for b. -/
def OtherBuffersSame (b : BufId) (s t : State) : Prop := ∀ b', b' ≠ b → t.buf b' = s.buf b'

/-! ## The opcode map and the illegal commands, as R79 and R80 list them -/

/-- The `buf` column of R79. -/
inductive BufField where
  | any | txOnly | rxOnly | free | zero
deriving DecidableEq, Repr

/-- The `sub` column of R79, by R74. -/
inductive SubField where
  | zero | selector | classAndCount | classOnly
deriving DecidableEq, Repr

/-- One row of R79: opcode, `buf`, `sub`, and whether `imm` is an operand. -/
structure CommandRow where
  op : BitVec 8
  buf : BufField
  sub : SubField
  imm : Bool
deriving DecidableEq, Repr

/-- R79's table. `free` is PARSE, whose `buf` may be any code (R195). -/
def commandTable : List CommandRow :=
  [ ⟨0x01, .any, .zero, false⟩, ⟨0x02, .any, .zero, false⟩, ⟨0x03, .any, .zero, false⟩,
    ⟨0x04, .any, .zero, false⟩, ⟨0x05, .any, .zero, true⟩, ⟨0x06, .any, .zero, false⟩,
    ⟨0x07, .any, .zero, false⟩, ⟨0x08, .any, .zero, true⟩, ⟨0x09, .any, .zero, false⟩,
    ⟨0x0A, .any, .zero, false⟩, ⟨0x0B, .any, .zero, false⟩, ⟨0x0C, .any, .zero, false⟩,
    ⟨0x10, .any, .zero, false⟩, ⟨0x11, .any, .zero, false⟩, ⟨0x12, .any, .zero, false⟩,
    ⟨0x13, .any, .zero, false⟩, ⟨0x14, .any, .zero, true⟩, ⟨0x15, .any, .zero, false⟩,
    ⟨0x16, .any, .zero, false⟩, ⟨0x20, .any, .selector, false⟩, ⟨0x21, .any, .selector, true⟩,
    ⟨0x22, .any, .zero, true⟩, ⟨0x23, .any, .zero, false⟩, ⟨0x24, .any, .zero, false⟩,
    ⟨0x25, .any, .zero, true⟩, ⟨0x30, .txOnly, .zero, false⟩, ⟨0x40, .free, .zero, false⟩,
    ⟨0x41, .zero, .zero, false⟩, ⟨0x42, .zero, .classAndCount, true⟩,
    ⟨0x43, .zero, .classOnly, true⟩, ⟨0x44, .zero, .zero, false⟩, ⟨0x45, .zero, .zero, false⟩,
    ⟨0x46, .zero, .classOnly, true⟩, ⟨0x47, .zero, .classOnly, true⟩,
    ⟨0x48, .zero, .zero, false⟩, ⟨0x49, .rxOnly, .zero, false⟩, ⟨0x4A, .zero, .zero, false⟩ ]

/-- A `buf` code that is reserved: 0x5 to 0x7 and 0xD to 0xF (R72). -/
def reservedBuf (c : BitVec 4) : Bool := decide (4 < c.toNat % 8)

/-- N_c by class code, for codes 0 to 2 (R11, R73). -/
def Config.countOfCode (cfg : Config) (code : Nat) : Nat :=
  if code = 0 then cfg.nfa else if code = 1 then 6 else cfg.nhm

/-- The cases (b) to (g) of R80 for a CMD word of one row of the table. -/
def rowIllegal (cfg : Config) (r : CommandRow) (t : Transaction) : Bool :=
  (match r.buf with
    | .any => reservedBuf t.buf
    | .txOnly => reservedBuf t.buf || decide (8 ≤ t.buf.toNat)
    | .rxOnly => reservedBuf t.buf || decide (t.buf.toNat < 8)
    | .free => false
    | .zero => t.buf != 0)
  || (match r.sub with
    | .zero => t.sub != 0
    | .selector => decide (2 ≤ t.sub.toNat)
    | .classAndCount =>
        decide (12 ≤ t.sub.toNat) || decide (Config.countOfCode cfg (t.sub.toNat / 4) ≤ t.imm.toNat)
    | .classOnly =>
        t.sub.toNat % 4 != 0 || decide (12 ≤ t.sub.toNat)
          || decide (Config.countOfCode cfg (t.sub.toNat / 4) ≤ t.imm.toNat))
  || (!r.imm && t.imm != 0)

/-- R80, cases (a) to (i): the transaction is an illegal command. -/
def illegalCommand (cfg : Config) (t : Transaction) : Bool :=
  (match commandTable.find? fun r => r.op == t.op with
    | none => true
    | some r => rowIllegal cfg r t)
  || (t.op == 0x08 && decide (2 ^ cfg.delayArgBits ≤ t.imm.toNat))
  || (if t.op = 0x05 then t.bytes.length != t.imm.toNat else !t.bytes.isEmpty)

/-! ## What the write commands store (R122 to R127, R129 to R132) -/

/-- The buffer a write command with a fixed word list writes, and that list, as its rule gives it. -/
def writtenWords (cfg : Config) : Instr → Option (BufId × List Word)
  | .writeU8 b x => some (b, [cfg.dataWord x])
  | .writeU16 b v =>
      some (b, [cfg.dataWord (v.extractLsb' 8 8), cfg.dataWord (v.extractLsb' 0 8)])
  | .writeU32 b v | .writeFloat b v =>
      some (b, [cfg.dataWord (v.extractLsb' 24 8), cfg.dataWord (v.extractLsb' 16 8),
        cfg.dataWord (v.extractLsb' 8 8), cfg.dataWord (v.extractLsb' 0 8)])
  | .writeString b _ xs => some (b, xs.map cfg.dataWord)
  | .writeWord b w => some (b, [w])
  | .writeDelay b n => some (b, [cfg.delayWord n])
  | .writeTrigger b => some (b, [cfg.cwTrigger])
  | .markEndOfFrame b => some (b, [cfg.cwEof])
  | .writeTimestamp b => some (b, [cfg.cwTimestamp])
  | .writeCrc _ | .markStartOfFrame _ | .readU8 _ | .readU16 _ | .readU32 _ | .readFloat _
  | .readString .. | .readCrc _ | .readWord _ | .getIndex .. | .setIndex .. | .setLength ..
  | .getLength _ | .clear _ | .computeCrc16 .. | .txSend _ | .parse _ | .verifyResponses
  | .setExpected .. | .getExpected .. | .clearExpected | .readStatus | .readDevwarn ..
  | .readTimeout .. | .clearWarnings | .readRxts _ | .readFaultcmd | .txDataWord _
  | .txDelayWord _ | .txTriggerWord | .txEofWord | .txTimestampWord | .rxLengthWord _
  | .rxTimestampWord _ | .rxDataWord _ => none

/-- The write commands of R120: those with a fixed list, and WRITE_CRC. -/
def isWrite (cfg : Config) (i : Instr) : Prop :=
  (writtenWords cfg i).isSome = true ∨ ∃ b, i = .writeCrc b

/-! ## Who writes what (R41) -/

/-- The state elements of R41's table; the fault registers are fatal entry's alone. -/
inductive Element where
  | mem | widx | ridx | len | fstart | result | rbytes | exp | tel | devwarn | timeout
  | subwarn | rxts | txout
deriving DecidableEq, Repr

/-- The element is the same in s and t. SUBWARN and UNKNOWN_SUBNET share a row of R41. -/
def Element.Same (s t : State) : Element → Prop
  | .mem => ∀ b k, t.word? b k = s.word? b k
  | .widx => ∀ b, (t.buf b).widx = (s.buf b).widx
  | .ridx => ∀ b, (t.buf b).ridx = (s.buf b).ridx
  | .len => ∀ b, (t.buf b).len = (s.buf b).len
  | .fstart => ∀ b, (t.buf b).fstart = (s.buf b).fstart
  | .result => t.result = s.result
  | .rbytes => t.rbytes = s.rbytes
  | .exp => t.exp = s.exp
  | .tel => t.tel = s.tel
  | .devwarn => t.devwarn = s.devwarn
  | .timeout => t.timeout = s.timeout
  | .subwarn => t.subwarn = s.subwarn ∧ t.unknownSubnet = s.unknownSubnet
  | .rxts => t.rxts = s.rxts
  | .txout => t.txout = s.txout

/-- The elements a command may write: R41's table read by command. The FIFO words are no commands. -/
def writesElements : Instr → List Element
  | .writeU8 .. | .writeU16 .. | .writeU32 .. | .writeFloat .. | .writeString .. | .writeWord ..
  | .writeCrc _ | .writeDelay .. | .writeTrigger _ | .markEndOfFrame _ | .writeTimestamp _ =>
      [.mem, .widx]
  | .markStartOfFrame _ => [.fstart]
  | .readU8 _ | .readU16 _ | .readU32 _ | .readFloat _ | .readCrc _ | .readWord _ =>
      [.ridx, .result]
  | .readString .. => [.ridx, .rbytes]
  | .getIndex .. | .getLength _ | .computeCrc16 .. | .getExpected .. | .readStatus
  | .readDevwarn .. | .readTimeout .. | .readRxts _ | .readFaultcmd => [.result]
  | .setIndex _ .write _ => [.widx]
  | .setIndex _ .read _ => [.ridx]
  | .setLength .. => [.len]
  | .clear _ => [.widx, .ridx, .len, .fstart]
  | .txSend _ => [.txout]
  | .parse _ => [.ridx, .exp, .tel, .devwarn, .subwarn, .rxts]
  | .verifyResponses => [.timeout, .result]
  | .setExpected .. | .clearExpected => [.exp]
  | .clearWarnings => [.devwarn, .subwarn]
  | .txDataWord _ | .txDelayWord _ | .txTriggerWord | .txEofWord | .txTimestampWord
  | .rxLengthWord _ | .rxTimestampWord _ | .rxDataWord _ => []

/-- Commands run one after another, as the host issues them (R62). -/
def runAll : List Instr → State → Host.Outcome State Fault Refusal
  | [], s => .next s
  | i :: is, s =>
      match exec i s with
      | .next t => runAll is t
      | .fault f => .fault f
      | .refused r => .refused r

/-! ## CRC (R102, R103, R104) -/

/-- A frame of at least 2 bytes is *CRC-valid* (R103). -/
def CrcValid (xs : List Byte) : Prop :=
  2 ≤ xs.length ∧
    (crc16 (xs.take (xs.length - 2))).toNat =
      (xs.getD (xs.length - 2) 0).toNat + 2 ^ 8 * (xs.getD (xs.length - 1) 0).toNat

/-- The bytes xs with bit j of byte k inverted (R104). -/
def flipBit (xs : List Byte) (k j : Nat) : List Byte := xs.modify k fun x => x ^^^ BitVec.twoPow 8 j

/-! ## The outcome of one record (R196) -/

/-- Rows 3 to 11 of R196's table, for a record whose body has been read. -/
inductive FrameOutcome where
  | tooShort
  | badCrc
  | unknownAddress
  | classThree
  | exceptionLength
  | exceptionResponse (c : DevClass) (i : Nat) (w : DevWarning)
  | noShape
  | shapeLength
  | decoded (c : DevClass) (i : Nat) (d : Decoder)
deriving DecidableEq, Repr

/-- The first row of R196 that holds for the frame bytes xs on subnet sn, in the table's order. -/
def frameOutcome (cfg : Config) (sn : Subnet) (xs : List Byte) : FrameOutcome :=
  if xs.length < 4 then .tooShort
  else if !crcOk xs then .badCrc
  else
    match Config.device? cfg sn (xs.getD 0 0) with
    | none => .unknownAddress
    | some (none, _) => .classThree
    | some (some c, i) =>
        if 128 ≤ (xs.getD 1 0).toNat then
          if xs.length = 5 then .exceptionResponse c i (Config.excWarning cfg (xs.getD 2 0))
          else .exceptionLength
        else
          match Config.shape? cfg c (xs.getD 1 0) with
          | none => .noShape
          | some (len, d) => if xs.length = len then .decoded c i d else .shapeLength

/-- What the row leaves of the state, PSTATE apart (R184 to R192). -/
def applyOutcome (sn : Subnet) (cmd : DWord) (xs : List Byte) (s : State) : FrameOutcome → State
  | .tooShort | .exceptionLength | .shapeLength => s.warnSubnet sn .invalidLength
  | .badCrc => s.warnSubnet sn .invalidCrc
  | .unknownAddress => s.warnSubnet sn .unknownAddress
  | .noShape => s.warnSubnet sn .unknownFunction
  | .classThree => s.raise .unknownDeviceClass cmd
  | .exceptionResponse c i w => (s.warnDevice c i w).account c i
  | .decoded c i d =>
      { s with tel := s.tel.set c i (Decoder.apply d (s.tel.get c i s.cfg.tel0) (payload xs)) }.account c i

/-- A row that credits its device: 8 or 11 (R196). -/
def FrameOutcome.credits : FrameOutcome → Option (DevClass × Nat)
  | .exceptionResponse c i _ | .decoded c i _ => some (c, i)
  | .tooShort | .badCrc | .unknownAddress | .classThree | .exceptionLength | .noShape
  | .shapeLength => none

/-! ## Receive records (R78) -/

/-- The words ws are one receive record carrying the frame bytes xs: HDR_WORDS header words, the first of
them the byte count, then one body word for each byte (R77, R78). -/
structure IsRecord (cfg : Config) (ws : List Word) (xs : List Byte) : Prop where
  length : ws.length = cfg.hdrWords + xs.length
  count : (ws.headD 0).toNat = xs.length
  body : (ws.drop cfg.hdrWords).map (cfg.byteOf .rx) = xs

/-- The words left after the last whole record: none, a truncated header, or a header whose declared count
passes the data (R182, R183). -/
def IsTail (cfg : Config) (tail : List Word) : Prop :=
  tail.length < cfg.hdrWords ∨ tail.length < cfg.hdrWords + (tail.headD 0).toNat

/-- The unparsed words of a receive buffer are these records, one after another, and then the tail. -/
structure RxHolds (s : State) (sn : Subnet) (recs : List (List Word × List Byte))
    (tail : List Word) : Prop where
  isRecord : ∀ r ∈ recs, IsRecord s.cfg r.1 r.2
  isTail : IsTail s.cfg tail
  words : s.Holds ⟨.rx, sn⟩ (s.rx.get sn).ridx.toNat (recs.flatMap (·.1) ++ tail)
  length : (s.rx.get sn).len.toNat =
    (s.rx.get sn).ridx.toNat + (recs.flatMap (·.1)).length + tail.length

/-- The timestamp words of a header that begins the words ws go to RXTS (R182). -/
def noteTimestamp (sn : Subnet) (ws : List Word) (s : State) : State :=
  if 1 < s.cfg.hdrWords then
    { s with rxts := s.rxts.set sn (timestamp ((ws.take s.cfg.hdrWords).drop 1)) }
  else s

/-- What the tail leaves: rows 1 and 2 of R196, and nothing for no tail (R182, R183). -/
def endOfRecords (sn : Subnet) (tail : List Word) (s : State) : State :=
  if tail.isEmpty then s
  else if tail.length < s.cfg.hdrWords then s.warnSubnet sn .invalidLength
  else (noteTimestamp sn tail s).warnSubnet sn .invalidLength

/-- What PARSE does to a buffer of these records and this tail, record by record: each header's timestamp,
then its row of R196, until a class-code-3 record stops it (R236) or the tail ends it and RIDX_b goes to the
end (R193). -/
def parseRecords (sn : Subnet) (cmd : DWord) (tail : List Word) :
    List (List Word × List Byte) → State → State
  | [], s =>
      let t := endOfRecords sn tail s
      { t with
        rx := t.rx.set sn { t.rx.get sn with ridx := (t.rx.get sn).len }
        pstate := .idle }
  | r :: rs, s =>
      let t := noteTimestamp sn r.1 s
      let o := frameOutcome t.cfg sn r.2
      if o = .classThree then applyOutcome sn cmd r.2 t o
      else parseRecords sn cmd tail rs (applyOutcome sn cmd r.2 t o)

/-- How many of these records credit the device (c, i) (R192, R207). -/
def creditCount (cfg : Config) (sn : Subnet) (recs : List (List Word × List Byte)) (c : DevClass)
    (i : Nat) : Nat :=
  recs.countP fun r => (frameOutcome cfg sn r.2).credits == some (c, i)

/-- No record of these names a class-code-3 device with a valid frame (row 6 of R196). -/
def NoClassThree (cfg : Config) (sn : Subnet) (recs : List (List Word × List Byte)) : Prop :=
  ∀ r ∈ recs, frameOutcome cfg sn r.2 ≠ .classThree

/-- The device (c, i) stands on the subnet: DMAP maps one of its addresses there (R12, R243). -/
def Config.onSubnet (cfg : Config) (sn : Subnet) (c : DevClass) (i : Nat) : Prop :=
  ∃ a, Config.device? cfg sn a = some (some c, i)

/-- The states agree on everything PARSE of one subnet works on: the configuration, the receive buffer and
its draws, the subnet's warnings and timestamp, and the entries of the subnet's devices (R243). -/
structure AgreeOnSubnet (sn : Subnet) (s t : State) : Prop where
  cfg : t.cfg = s.cfg
  rx : t.rx.get sn = s.rx.get sn
  draws : t.draws = s.draws
  subwarn : t.subwarn.get sn = s.subwarn.get sn
  rxts : t.rxts.get sn = s.rxts.get sn
  fault : t.fatal = s.fatal ∧ t.fcause = s.fcause ∧ t.fcmd = s.fcmd
  exp : ∀ c i, Config.onSubnet s.cfg sn c i → t.exp.get c i 0 = s.exp.get c i 0
  tel : ∀ c i, Config.onSubnet s.cfg sn c i → t.tel.get c i s.cfg.tel0 = s.tel.get c i s.cfg.tel0
  devwarn : ∀ c i, Config.onSubnet s.cfg sn c i → t.devwarn.get c i 0 = s.devwarn.get c i 0

end Sys2Proof.Machine
end

