-- ==== Sys2Proof/Certificates/Slice0/Obligations.lean ====
section
/-! DEFINITION. The statements for the provers. Each docstring names the rule of spec/ it formalises. -/

open Sys2Proof Sys2Proof.Machine

/-! ## Encoding -/

/-- Decoding the encoding of any command gives it back: no bit of an encoding is dropped (R79, R84). -/
def Obligations.DecodeOfEncodeIsIdentity : Prop :=
  ∀ (cfg : Config) (i : Instr), i.isCommand = true → decode (encode cfg i) = some i

/-- Every CMD word that decodes is the CMD word of what it decodes to, and BYTES are those of the command:
each legal word has one meaning (R79, R84). -/
def Obligations.EncodeOfDecodeRestoresTheCommandWord : Prop :=
  ∀ (cfg : Config) (t : Transaction) (i : Instr), decode t = some i →
    i.isCommand = true ∧ (encode cfg i).cmd = t.cmd ∧ (encode cfg i).bytes = t.bytes

/-- ARG bits a command does not use are ignored, never an illegal command: a transaction decodes, or not,
whatever its ARG, and only the value operands of R81 and the whole-ARG commands depend on it (R81). -/
def Obligations.UnusedArgBitsAreIgnored : Prop :=
  ∀ (t : Transaction) (arg' : DWord),
    ((decode { t with arg := arg' }).isSome = (decode t).isSome) ∧
    (t.op = 0x01 → arg'.extractLsb' 0 8 = t.arg.extractLsb' 0 8 →
      decode { t with arg := arg' } = decode t) ∧
    ((t.op = 0x02 ∨ t.op = 0x06 ∨ t.op = 0x25) →
      arg'.extractLsb' 0 16 = t.arg.extractLsb' 0 16 →
      decode { t with arg := arg' } = decode t) ∧
    ((t.op ≠ 0x01 ∧ t.op ≠ 0x02 ∧ t.op ≠ 0x03 ∧ t.op ≠ 0x04 ∧ t.op ≠ 0x06 ∧ t.op ≠ 0x25) →
      decode { t with arg := arg' } = decode t)

/-- Each illegal command of R80 (a) to (i), met outside the fatal state, takes the ILLEGAL_COMMAND fault and
has no other effect (R80). In particular it does so before any capacity check: a WRITE_DELAY with too wide a
count is ILLEGAL_COMMAND even where the buffer is full. -/
def Obligations.IllegalCommandTakesFatalFault : Prop :=
  ∀ (s : State) (t : Transaction) (rest : List Input),
    s.cfg.wf = true → s.fatal = false → s.inputs = .command t :: rest →
    illegalCommand s.cfg t = true →
    step s = .next { s with
      inputs := rest, fatal := true, fcause := 4, fcmd := t.cmd, pstate := .idle }

/-- A transaction that R80 does not make illegal is a command with legal operand values (R79, R80). -/
def Obligations.LegalCommandDecodes : Prop :=
  ∀ (cfg : Config) (t : Transaction), illegalCommand cfg t = false →
    ∃ i, decode t = some i ∧ i.isCommand = true ∧ i.wf cfg = true

/-- Under a configuration the spec admits, a reader of the transmit stream recovers every data and control
word, and every word it classifies is that word's encoding (R75, R76, R86). -/
def Obligations.TransmitWordsAreClassified : Prop :=
  ∀ (cfg : Config), cfg.wf = true →
    (∀ x, decodeTx cfg (cfg.dataWord x) = some (.txDataWord x)) ∧
    (∀ n : Word, n.toNat < 2 ^ cfg.delayArgBits →
      decodeTx cfg (cfg.delayWord n) = some (.txDelayWord n)) ∧
    decodeTx cfg cfg.cwTrigger = some .txTriggerWord ∧
    decodeTx cfg cfg.cwEof = some .txEofWord ∧
    decodeTx cfg cfg.cwTimestamp = some .txTimestampWord ∧
    (∀ w i, decodeTx cfg w = some i → fifoWord cfg i = w ∧ i.wf cfg = true)

/-- The one-line check of R76 (ii) on the delay range is exact: it holds just when no delay word has the
data-word form. -/
def Obligations.DelayRangeCheckIsExact : Prop :=
  ∀ (cfg : Config), cfg.txDataTag &&& 0x01FF = 1 → cfg.delayArgBits ≤ 16 →
    cfg.cwDelayBase &&& lowMask cfg.delayArgBits = 0 →
    (cfg.delayRangeClear = true ↔
      ∀ n : Word, n.toNat < 2 ^ cfg.delayArgBits →
        (cfg.delayWord n &&& 0xFE01) ≠ cfg.txDataTag)

/-- The data word of a byte is the byte shifted left by one with the tag in it: the byte is in bits 8:1, bit 0
is set, bits 15:9 are the tag's, and `byte_of` on a transmit buffer reads the byte back. `byte_of` on a receive
buffer takes the eight bits from RX_BYTE_LSB on and ignores every other bit (R75, R77, R82). -/
def Obligations.WordsCarryBytesByPosition : Prop :=
  ∀ (cfg : Config), cfg.wf = true →
    (∀ x : Byte, cfg.dataWord x = (x.setWidth 16 <<< 1) ||| cfg.txDataTag ∧
      (cfg.dataWord x).extractLsb' 1 8 = x ∧ (cfg.dataWord x).getLsbD 0 = true ∧
      (cfg.dataWord x).extractLsb' 9 7 = cfg.txDataTag.extractLsb' 9 7 ∧
      cfg.byteOf .tx (cfg.dataWord x) = x) ∧
    (∀ w : Word, cfg.byteOf .tx w = w.extractLsb' 1 8 ∧
      cfg.byteOf .rx w = w.extractLsb' cfg.rxByteLsb 8) ∧
    (∀ w w' : Word, (∀ k, k < 8 → w'.getLsbD (cfg.rxByteLsb + k) = w.getLsbD (cfg.rxByteLsb + k)) →
      cfg.byteOf .rx w' = cfg.byteOf .rx w)

/-- A few words written out from the spec's encoding decode to the instructions they stand for: a sanity
statement (R79, and the CMD columns of 95_test_vectors.md). -/
def Obligations.SampleWordsDecode : Prop :=
  decode ⟨0x01000000, 0x0000000A, []⟩ = some (.writeU8 ⟨.tx, .s1⟩ 0x0A) ∧
  decode ⟨0x14800002, 0, []⟩ = some (.readString ⟨.rx, .s1⟩ 2) ∧
  decode ⟨0x2500003C, 5, []⟩ = some (.computeCrc16 ⟨.tx, .s1⟩ 60 5) ∧
  decode ⟨0x30200000, 0, []⟩ = some (.txSend .s3) ∧
  decode ⟨0x40900000, 0, []⟩ = some (.parse 9) ∧
  decode ⟨0x420B0005, 0, []⟩ = some (.setExpected .hm 5 3) ∧
  decode ⟨0x21010040, 0, []⟩ = some (.setIndex ⟨.tx, .s1⟩ .read 64)

/-! ## The step, reset and the invariant -/

/-- One step takes the oldest transaction of the host and, where it decodes, runs that command, and nothing
else: the rest of the inputs stay (R7, R59, R62, R70). -/
def Obligations.StepRunsTheDecodedCommand : Prop :=
  ∀ (s : State) (t : Transaction) (rest : List Input) (i : Instr),
    s.cfg.wf = true → s.inputs = .command t :: rest → decode t = some i →
    step s = exec i { s with inputs := rest }

/-- The reset input gives every state element the value of R42's table and leaves the configuration alone; it
answers from the fatal state too (R260, R42). That the rest of the inputs and the count of draws stay is the
model's choice (log 6, log 8). -/
def Obligations.ResetInputRestoresResetValues : Prop :=
  ∀ (s : State) (rest : List Input), s.cfg.wf = true → s.inputs = .reset :: rest →
    ∃ t, step s = .next t ∧ t.cfg = s.cfg ∧ t.inputs = rest ∧ t.draws = s.draws ∧
      (∀ b k, t.word? b k = none) ∧
      (∀ b, (t.buf b).widx = 0 ∧ (t.buf b).ridx = 0 ∧ (t.buf b).len = 0 ∧ (t.buf b).fstart = 0) ∧
      t.result = 0 ∧ t.rbytes = [] ∧
      (∀ c, t.exp.file c = List.replicate (s.cfg.count c) 0) ∧
      (∀ c, t.tel.file c = List.replicate (s.cfg.count c) s.cfg.tel0) ∧
      (∀ c, t.devwarn.file c = List.replicate (s.cfg.count c) 0) ∧
      (∀ c, t.timeout.file c = List.replicate (s.cfg.count c) false) ∧
      (∀ sn, t.subwarn.get sn = 0 ∧ t.rxts.get sn = 0 ∧ t.txout.get sn = []) ∧
      t.unknownSubnet = false ∧ t.fatal = false ∧ t.fcause = 0 ∧ t.fcmd = 0 ∧ t.pstate = .idle

/-- The state after reset meets the invariant, under every configuration the spec admits and so under REFCFG,
which `State.reset` takes (the model's choice, log 4) (R42, R260). -/
def Obligations.ResetMeetsTheInvariant : Prop :=
  (∀ cfg : Config, cfg.wf = true → (State.resetWith cfg).Inv) ∧ State.reset.Inv

/-- Every step keeps the invariant: legal words and cursors in every buffer, device files of the right size,
RXTS within its width, PSTATE back in P_IDLE, and a fault register set that agrees with FATAL (R21 to R25,
R28 to R31, R34, R35, R37). -/
def Obligations.EveryStepKeepsTheInvariant : Prop :=
  ∀ (s t : State), s.Inv → step s = .next t → t.Inv

/-- A step stops in two cases only: in a fault when the host offers nothing more and the block is in the fatal
state ("never a normal final state", R234), and in a refusal under a configuration that breaks R12 or R76. With
nothing offered outside the fatal state nothing changes. That the stops come there is the model's choice (log 3,
log 10). -/
def Obligations.StepStopsOnlyInTwoCases : Prop :=
  ∀ (s : State),
    (∀ f, step s = .fault f ↔
      s.cfg.wf = true ∧ s.inputs = [] ∧ s.fatal = true ∧ f = .endedInFatalState s.fcause) ∧
    (∀ r, step s = .refused r ↔ s.cfg.wf = false ∧ r = .configurationRefused) ∧
    (s.cfg.wf = true → s.inputs = [] → s.fatal = false → step s = .next s)

/-! ## Fatal faults -/

/-- In the fatal state every command but a legal READ_STATUS or READ_FAULTCMD is refused and changes nothing,
even one whose CMD word would be illegal; those two execute (R234). -/
def Obligations.FatalStateRefusesCommands : Prop :=
  ∀ (s : State) (t : Transaction) (rest : List Input),
    s.cfg.wf = true → s.fatal = true → s.inputs = .command t :: rest →
    step s = .next
      (if illegalCommand s.cfg t = false ∧ t.op = 0x45 then
        { s with inputs := rest, result := s.status }
      else if illegalCommand s.cfg t = false ∧ t.op = 0x4A then
        { s with inputs := rest, result := s.fcmd }
      else { s with inputs := rest })

/-- No command leaves the fatal state or changes the recorded cause and command; the reset input clears all
three fault registers (R235). -/
def Obligations.OnlyResetLeavesTheFatalState : Prop :=
  ∀ (s t : State) (x : Input) (rest : List Input),
    s.fatal = true → s.inputs = x :: rest → step s = .next t →
    (x ≠ .reset → t.fatal = true ∧ t.fcause = s.fcause ∧ t.fcmd = s.fcmd) ∧
    (x = .reset → t.fatal = false ∧ t.fcause = 0 ∧ t.fcmd = 0)

/-- A fatal fault is precise: but for PARSE, the state after it is the state before the command plus the
three fault registers, with PSTATE in P_IDLE (R233). -/
def Obligations.FatalFaultIsPrecise : Prop :=
  ∀ (i : Instr) (s t : State), (∀ code, i ≠ .parse code) → s.fatal = false →
    exec i s = .next t → t.fatal = true →
    t = { s with fatal := true, fcause := t.fcause, fcmd := i.cmd s.cfg, pstate := .idle } ∧
    1 ≤ t.fcause.toNat ∧ t.fcause.toNat ≤ 4

/-- Which commands can raise which cause (R232). -/
def Obligations.CausesComeFromTheirCommands : Prop :=
  ∀ (i : Instr) (s t : State), i.isCommand = true → s.fatal = false → exec i s = .next t →
    t.fatal = true →
    (t.fcause = 1 → isWrite s.cfg i ∨ (∃ b c v, i = .setIndex b c v) ∨
      (∃ b v, i = .setLength b v) ∨ (∃ b st n, i = .computeCrc16 b st n)) ∧
    (t.fcause = 2 → ∃ b, i = .readU8 b ∨ i = .readU16 b ∨ i = .readU32 b ∨ i = .readFloat b ∨
      (∃ n, i = .readString b n) ∨ i = .readCrc b ∨ i = .readWord b) ∧
    (t.fcause = 3 → ∃ code, i = .parse code) ∧
    (t.fcause = 1 ∨ t.fcause = 2 ∨ t.fcause = 3 ∨ t.fcause = 4)

/-- A PARSE that meets a class-code-3 entry leaves every buffer as it was, RIDX included, and the return
registers, TIMEOUT, UNKNOWN_SUBNET and TXOUT too, and records its own CMD word; it keeps what earlier records
did, which `ParseFollowsTheOutcomeTable` states record by record (R236). -/
def Obligations.FatalParseKeepsTheReadCursor : Prop :=
  ∀ (code : BitVec 4) (s t : State), s.fatal = false → exec (.parse code) s = .next t →
    t.fatal = true →
    t.fcause = 3 ∧ t.fcmd = (Instr.parse code).cmd s.cfg ∧ t.pstate = .idle ∧
    (∀ b, t.buf b = s.buf b) ∧ t.result = s.result ∧ t.rbytes = s.rbytes ∧
    t.timeout = s.timeout ∧ t.unknownSubnet = s.unknownSubnet ∧ t.txout = s.txout

/-! ## Writes -/

/-- A write command that fits stores exactly its words at the write cursor and advances it by their number;
every other word of every buffer reads as before, and nothing but that buffer's words and write cursor
changes. It covers WRITE_U8, WRITE_U16, WRITE_U32, WRITE_FLOAT, WRITE_STRING, WRITE_WORD, WRITE_DELAY,
WRITE_TRIGGER, MARK_END_OF_FRAME and WRITE_TIMESTAMP (R120, R122 to R127, R129 to R132). -/
def Obligations.WritesAppendAtTheCursor : Prop :=
  ∀ (s : State) (i : Instr) (b : BufId) (ws : List Word),
    s.cfg.wf = true → s.fatal = false → i.wf s.cfg = true → writtenWords s.cfg i = some (b, ws) →
    (s.buf b).widx.toNat + ws.length ≤ s.cfg.capWords →
    ∃ t, exec i s = .next t ∧
      t.Holds b (s.buf b).widx.toNat ws ∧
      (t.buf b).widx.toNat = (s.buf b).widx.toNat + ws.length ∧
      (∀ k, (k < (s.buf b).widx.toNat ∨ (s.buf b).widx.toNat + ws.length ≤ k) →
        t.word? b k = s.word? b k) ∧
      (t.buf b).ridx = (s.buf b).ridx ∧ (t.buf b).len = (s.buf b).len ∧
      (t.buf b).fstart = (s.buf b).fstart ∧
      OtherBuffersSame b s t ∧ SameButBuffers s t

/-- A write command that does not fit stores nothing: the overflow check covers the whole list (R120). The
same commands as in `WritesAppendAtTheCursor`, and WRITE_CRC (R128). -/
def Obligations.OverflowingWriteStoresNothing : Prop :=
  ∀ (s : State) (i : Instr) (b : BufId) (n : Nat), s.fatal = false → i.wf s.cfg = true →
    ((∃ ws, writtenWords s.cfg i = some (b, ws) ∧ n = ws.length) ∨ (i = .writeCrc b ∧ n = 2)) →
    s.cfg.capWords < (s.buf b).widx.toNat + n →
    exec i s = .next { s with
      fatal := true, fcause := 1, fcmd := i.cmd s.cfg, pstate := .idle }

/-- WRITE_CRC that fits appends the CRC-16 of the bytes of the words FSTART_b .. WIDX_b−1, low byte first, and
touches nothing else; where those words have all been written no value is drawn, and an empty range gives 0xFFFF
(R128, R102). An unwritten word among them contributes the byte of its draw (R65; that the draws come from one
numbered supply is the model's choice, log 6), and `UnwrittenWordsAreFreshDraws` says what each word reads as. -/
def Obligations.WriteCrcAppendsTheFrameCrc : Prop :=
  ∀ (s : State) (b : BufId), s.cfg.wf = true → s.fatal = false →
    (s.buf b).widx.toNat + 2 ≤ s.cfg.capWords →
    ∃ t xs c, exec (.writeCrc b) s = .next t ∧
      (xs, t.draws) = s.bytesAt b (s.buf b).fstart.toNat
        ((s.buf b).widx.toNat - (s.buf b).fstart.toNat) ∧ c = crc16 xs ∧
      (∀ ws, s.Holds b (s.buf b).fstart.toNat ws →
        (s.buf b).widx.toNat - (s.buf b).fstart.toNat = ws.length →
        c = crc16 (ws.map (s.cfg.byteOf b.kind)) ∧ t.draws = s.draws) ∧
      ((s.buf b).widx.toNat ≤ (s.buf b).fstart.toNat → c = 0xFFFF) ∧
      t.Holds b (s.buf b).widx.toNat
        [s.cfg.dataWord (c.extractLsb' 0 8), s.cfg.dataWord (c.extractLsb' 8 8)] ∧
      (t.buf b).widx.toNat = (s.buf b).widx.toNat + 2 ∧
      (∀ k, (k < (s.buf b).widx.toNat ∨ (s.buf b).widx.toNat + 2 ≤ k) →
        t.word? b k = s.word? b k) ∧
      (t.buf b).ridx = (s.buf b).ridx ∧ (t.buf b).len = (s.buf b).len ∧
      (t.buf b).fstart = (s.buf b).fstart ∧ OtherBuffersSame b s t ∧
      t = { s with tx := t.tx, rx := t.rx, draws := t.draws }

/-- The FRAME sequence on a transmit buffer with room for it runs to its end and leaves, from the old write
cursor on, the data words of the bytes, the two CRC words and the end-of-frame word; the bytes with the CRC
are CRC-valid (R85, R102, R103, R122, R128, R131, R133). -/
def Obligations.BuiltFrameIsCrcValid : Prop :=
  ∀ (s : State) (sn : Subnet) (xs : List Byte), s.cfg.wf = true → s.fatal = false →
    (s.tx.get sn).widx.toNat + xs.length + 3 ≤ s.cfg.capWords →
    ∃ t ys, runAll (pseudoFrame ⟨.tx, sn⟩ xs) s = .next t ∧ ys.length = xs.length + 2 ∧
      ys.take xs.length = xs ∧ CrcValid ys ∧
      t.Holds ⟨.tx, sn⟩ (s.tx.get sn).widx.toNat (ys.map s.cfg.dataWord ++ [s.cfg.cwEof]) ∧
      (t.tx.get sn).widx.toNat = (s.tx.get sn).widx.toNat + xs.length + 3 ∧
      (t.tx.get sn).fstart = (s.tx.get sn).widx ∧ t.fatal = false

/-- A patch replaces exactly the words it writes and leaves the write cursor after them, not where it was
before (R139). -/
def Obligations.PatchReplacesOnlyItsWords : Prop :=
  ∀ (s : State) (i : Instr) (b : BufId) (ws : List Word) (k : Word),
    s.cfg.wf = true → s.fatal = false → i.wf s.cfg = true → writtenWords s.cfg i = some (b, ws) →
    k.toNat + ws.length ≤ s.cfg.capWords →
    ∃ t, runAll [.setIndex b .write k, i] s = .next t ∧ t.Holds b k.toNat ws ∧
      (∀ j, (j < k.toNat ∨ k.toNat + ws.length ≤ j) → t.word? b j = s.word? b j) ∧
      (t.buf b).widx.toNat = k.toNat + ws.length ∧ (t.buf b).len = (s.buf b).len ∧
      (t.buf b).fstart = (s.buf b).fstart ∧ (t.buf b).ridx = (s.buf b).ridx ∧
      OtherBuffersSame b s t ∧ SameButBuffers s t

/-! ## Cursors, length and CRC -/

/-- GET_INDEX returns the selected cursor and GET_LENGTH the length, zero-extended, and change nothing else
(R134, R137). -/
def Obligations.CursorReadsReturnThem : Prop :=
  ∀ (s : State) (b : BufId), s.fatal = false →
    exec (.getIndex b .write) s = .next { s with result := (s.buf b).widx.setWidth 32 } ∧
    exec (.getIndex b .read) s = .next { s with result := (s.buf b).ridx.setWidth 32 } ∧
    exec (.getLength b) s = .next { s with result := (s.buf b).len.setWidth 32 }

/-- SET_INDEX sets the selected cursor and SET_LENGTH the length, up to CAP_WORDS; MARK_START_OF_FRAME records
the write cursor; CLEAR zeroes the cursors, LEN and FSTART and keeps every word; each changes nothing else
(R133, R135, R136, R138). -/
def Obligations.CursorWritesSetThem : Prop :=
  ∀ (s : State) (b : BufId) (v : Word), s.fatal = false →
    (v.toNat ≤ s.cfg.capWords → ∃ t, exec (.setIndex b .write v) s = .next t ∧
      t.buf b = { s.buf b with widx := v } ∧ OtherBuffersSame b s t ∧ SameButBuffers s t) ∧
    (v.toNat ≤ s.cfg.capWords → ∃ t, exec (.setIndex b .read v) s = .next t ∧
      t.buf b = { s.buf b with ridx := v } ∧ OtherBuffersSame b s t ∧ SameButBuffers s t) ∧
    (v.toNat ≤ s.cfg.capWords → ∃ t, exec (.setLength b v) s = .next t ∧
      t.buf b = { s.buf b with len := v } ∧ OtherBuffersSame b s t ∧ SameButBuffers s t) ∧
    (∃ t, exec (.markStartOfFrame b) s = .next t ∧
      t.buf b = { s.buf b with fstart := (s.buf b).widx } ∧ OtherBuffersSame b s t ∧
      SameButBuffers s t) ∧
    (∃ t, exec (.clear b) s = .next t ∧
      t.buf b = { mem := (s.buf b).mem, widx := 0, ridx := 0, len := 0, fstart := 0 } ∧
      OtherBuffersSame b s t ∧ SameButBuffers s t)

/-- SET_LENGTH, as the block meets it: an illegal CMD word is ILLEGAL_COMMAND, a length above CAP_WORDS is
BUFFER_OVERFLOW, and any other sets LEN_b and nothing else (R136). -/
def Obligations.SetLengthFollowsItsRule : Prop :=
  ∀ (s : State) (t : Transaction) (rest : List Input),
    s.cfg.wf = true → s.fatal = false → s.inputs = .command t :: rest → t.op = 0x22 →
    (illegalCommand s.cfg t = true → step s = .next { s with
      inputs := rest, fatal := true, fcause := 4, fcmd := t.cmd, pstate := .idle }) ∧
    (illegalCommand s.cfg t = false → s.cfg.capWords < t.imm.toNat → step s = .next { s with
      inputs := rest, fatal := true, fcause := 1, fcmd := t.cmd, pstate := .idle }) ∧
    (illegalCommand s.cfg t = false → t.imm.toNat ≤ s.cfg.capWords →
      ∃ b u, bufOfCode t.buf = some b ∧ step s = .next u ∧
        u.buf b = { s.buf b with len := t.imm } ∧ OtherBuffersSame b s u ∧
        u = { s with inputs := rest, tx := u.tx, rx := u.rx })

/-- SET_INDEX beyond CAP_WORDS and COMPUTE_CRC16 over a range that passes CAP_WORDS, summed without wrap, are
BUFFER_OVERFLOW and change nothing else (R105, R135). -/
def Obligations.RangeBeyondCapacityIsFatal : Prop :=
  ∀ (s : State) (b : BufId) (c : Cursor) (v n : Word), s.fatal = false →
    (s.cfg.capWords < v.toNat → exec (.setIndex b c v) s = .next { s with
      fatal := true, fcause := 1, fcmd := (Instr.setIndex b c v).cmd s.cfg, pstate := .idle }) ∧
    (s.cfg.capWords < v.toNat + n.toNat → exec (.computeCrc16 b v n) s = .next { s with
      fatal := true, fcause := 1, fcmd := (Instr.computeCrc16 b v n).cmd s.cfg,
      pstate := .idle })

/-- COMPUTE_CRC16 within the capacity returns the CRC-16 of the bytes of its range, whatever LEN_b is, and
changes nothing but RESULT and the count of draws; where the words have all been written they are those words'
bytes and no value is drawn (R105). An unwritten word of the range contributes the byte of its draw (R65; the
numbered supply is the model's choice, log 6), and `UnwrittenWordsAreFreshDraws` says what each word reads as. -/
def Obligations.ComputeCrcReturnsTheRangeCrc : Prop :=
  ∀ (s : State) (b : BufId) (st n : Word), s.fatal = false →
    st.toNat + n.toNat ≤ s.cfg.capWords →
    ∃ t xs, exec (.computeCrc16 b st n) s = .next t ∧
      (xs, t.draws) = s.bytesAt b st.toNat n.toNat ∧ t.result = (crc16 xs).setWidth 32 ∧
      (∀ ws, s.Holds b st.toNat ws → n.toNat = ws.length →
        t.result.toNat = (crc16 (ws.map (s.cfg.byteOf b.kind))).toNat ∧ t.draws = s.draws) ∧
      (n = 0 → t.result = 0x0000FFFF) ∧
      t = { s with result := t.result, draws := t.draws }

/-- The CRC-16 of the source's reference vector is 0xCDC5, sent C5 then CD, and the full frame on the wire is
the six bytes and those two (R106). -/
def Obligations.CrcOfTheReferenceVector : Prop :=
  crc16 [0x01, 0x03, 0x00, 0x00, 0x00, 0x0A] = 0xCDC5 ∧
  bytesCrc (crc16 [0x01, 0x03, 0x00, 0x00, 0x00, 0x0A]) = [0xC5, 0xCD] ∧
  CrcValid [0x01, 0x03, 0x00, 0x00, 0x00, 0x0A, 0xC5, 0xCD]

/-- A body followed by its CRC, low byte first, is CRC-valid, and a frame is CRC-valid just when the CRC over
all of it is 0 (R102, R103). -/
def Obligations.CrcAppendedFrameIsValid : Prop :=
  (∀ xs : List Byte, CrcValid (xs ++
    [(crc16 xs).extractLsb' 0 8, (crc16 xs).extractLsb' 8 8])) ∧
  (∀ xs : List Byte, 2 ≤ xs.length → (CrcValid xs ↔ crc16 xs = 0)) ∧
  (∀ xs : List Byte, 2 ≤ xs.length → (crcOk xs = true ↔ CrcValid xs))

/-- Any single-bit change in a CRC-valid frame, in the body or in the two CRC bytes, makes it CRC-invalid
(R104). -/
def Obligations.SingleBitErrorIsDetected : Prop :=
  ∀ (xs : List Byte) (k j : Nat), CrcValid xs → k < xs.length → j < 8 →
    ¬CrcValid (flipBit xs k j)

/-! ## Reads and transmit -/

/-- The byte-read commands within LEN_b take the bytes at the read cursor, most significant first and
READ_CRC low byte first, put the value in RESULT or RBYTES, advance the cursor by their width, and change
nothing else but the count of draws (R160 to R166). READ_U8 is the case n = 1, READ_U16 and READ_CRC n = 2,
READ_U32 and READ_FLOAT n = 4, READ_STRING any n. Each written word gives its own byte, whatever stands beside
it, and where all have been written no value is drawn; an unwritten word gives the byte of its draw (R65; the
numbered supply is the model's choice, log 6), and `UnwrittenWordsAreFreshDraws` says which. -/
def Obligations.ReadsTakeBytesAtTheCursor : Prop :=
  ∀ (s : State) (b : BufId) (n : Nat), s.fatal = false →
    (s.buf b).ridx.toNat + n ≤ (s.buf b).len.toNat →
    ∃ t xs, xs.length = n ∧ (xs, t.draws) = s.bytesAt b (s.buf b).ridx.toNat n ∧
      (∀ k v, k < n → s.word? b ((s.buf b).ridx.toNat + k) = some v →
        xs[k]? = some (s.cfg.byteOf b.kind v)) ∧
      (∀ ws, s.Holds b (s.buf b).ridx.toNat ws → ws.length = n →
        xs = ws.map (s.cfg.byteOf b.kind) ∧ t.draws = s.draws) ∧
      t.buf b = { s.buf b with ridx := (t.buf b).ridx } ∧
      (t.buf b).ridx.toNat = (s.buf b).ridx.toNat + n ∧ OtherBuffersSame b s t ∧
      t = { s with tx := t.tx, rx := t.rx, draws := t.draws } ∧
      (∀ x0, xs = [x0] → exec (.readU8 b) s = .next { t with result := x0.setWidth 32 }) ∧
      (∀ x0 x1, xs = [x0, x1] →
        exec (.readU16 b) s = .next { t with
          result := BitVec.ofNat 32 (x0.toNat * 2 ^ 8 + x1.toNat) } ∧
        exec (.readCrc b) s = .next { t with
          result := BitVec.ofNat 32 (x1.toNat * 2 ^ 8 + x0.toNat) }) ∧
      (∀ x0 x1 x2 x3, xs = [x0, x1, x2, x3] →
        exec (.readU32 b) s = .next { t with
          result := BitVec.ofNat 32
            (x0.toNat * 2 ^ 24 + x1.toNat * 2 ^ 16 + x2.toNat * 2 ^ 8 + x3.toNat) } ∧
        exec (.readFloat b) s = .next { t with
          result := BitVec.ofNat 32
            (x0.toNat * 2 ^ 24 + x1.toNat * 2 ^ 16 + x2.toNat * 2 ^ 8 + x3.toNat) }) ∧
      (∀ m : Word, m.toNat = n → exec (.readString b m) s = .next { t with rbytes := xs })

/-- READ_WORD within LEN_b returns the raw word at the read cursor, tag and control bits included, advances the
cursor by one, and changes nothing else (R167). An unwritten word is a free value (R65); that it is the next of
one numbered supply, and that the count of draws goes up by one, is the model's choice (log 6). -/
def Obligations.RawWordReadReturnsTheWord : Prop :=
  ∀ (s : State) (b : BufId), s.fatal = false →
    (s.buf b).ridx.toNat + 1 ≤ (s.buf b).len.toNat →
    ∃ t w, exec (.readWord b) s = .next { t with result := w.setWidth 32 } ∧
      (∀ v, s.word? b (s.buf b).ridx.toNat = some v → w = v ∧ t.draws = s.draws) ∧
      (s.word? b (s.buf b).ridx.toNat = none →
        w = Config.freeWord s.draws ∧ t.draws = s.draws + 1) ∧
      t.buf b = { s.buf b with ridx := (t.buf b).ridx } ∧
      (t.buf b).ridx.toNat = (s.buf b).ridx.toNat + 1 ∧ OtherBuffersSame b s t ∧
      t = { s with tx := t.tx, rx := t.rx, draws := t.draws }

/-- A read of at least one word that passes LEN_b moves no cursor, returns nothing, and is READ_PAST_END (R160 to
R167). READ_STRING of no byte is `EmptyStringReadFaultsOnlyBeyondTheLength`. -/
def Obligations.ReadPastEndIsFatal : Prop :=
  ∀ (s : State) (i : Instr) (b : BufId) (n : Nat), s.fatal = false →
    ((n = 1 ∧ (i = .readU8 b ∨ i = .readWord b)) ∨ (n = 2 ∧ (i = .readU16 b ∨ i = .readCrc b)) ∨
      (n = 4 ∧ (i = .readU32 b ∨ i = .readFloat b)) ∨ (∃ m, n = m.toNat ∧ 0 < n ∧ i = .readString b m)) →
    (s.buf b).len.toNat < (s.buf b).ridx.toNat + n →
    exec i s = .next { s with
      fatal := true, fcause := 2, fcmd := i.cmd s.cfg, pstate := .idle }

/-- READ_STRING with n = 0 and the read cursor within LEN_b gives RBYTES = [] and changes nothing else (R165). With
the cursor beyond LEN_b, where SET_INDEX may leave it (R135), R165's corner case says that it never faults and
R160, R165's own Exceptions line and D17 say READ_PAST_END: that the model takes the fault is its own choice
(DESIGN CHOICE, log 14). -/
def Obligations.EmptyStringReadFaultsOnlyBeyondTheLength : Prop :=
  ∀ (s : State) (b : BufId), s.fatal = false →
    ((s.buf b).ridx.toNat ≤ (s.buf b).len.toNat →
      exec (.readString b 0) s = .next { s with rbytes := [] }) ∧
    ((s.buf b).len.toNat < (s.buf b).ridx.toNat →
      exec (.readString b 0) s = .next { s with
        fatal := true, fcause := 2, fcmd := (Instr.readString b 0).cmd s.cfg, pstate := .idle })

/-- A read of consecutive words yields each written word as it stands, and each unwritten one as a free value
of its own: the draws are numbered on without a gap, so no number is used twice (R65; that the values come from
one numbered supply is the model's choice, log 6). -/
def Obligations.UnwrittenWordsAreFreshDraws : Prop :=
  ∀ (m : Memory) (i n d : Nat),
    (Memory.readAll m i n d).1.length = n ∧
    (Memory.readAll m i n d).2 =
      d + (List.range n).countP (fun k => (Memory.word? m (i + k)).isNone) ∧
    ∀ k, k < n →
      (∀ v, Memory.word? m (i + k) = some v → (Memory.readAll m i n d).1[k]? = some v) ∧
      (Memory.word? m (i + k) = none → (Memory.readAll m i n d).1[k]? =
        some (Config.freeWord
          (d + (List.range k).countP (fun j => (Memory.word? m (i + j)).isNone))))

/-- What a write command stores the matching read command returns: WRITE_WORD and READ_WORD on every buffer, and
the byte fields, in the byte order of R54 and R55, where the buffer's words carry bytes as transmit words do (any
transmit buffer, and a receive buffer with RX_BYTE_LSB = 1): U8, U16, U32, FLOAT, STRING, and CRC, which reads back
the CRC of the frame bytes (R128; those of unwritten words are draws, log 6). The field begins at any index: there
is no alignment (R54, R55, R56, R57). -/
def Obligations.WrittenFieldsReadBack : Prop :=
  ∀ (s : State) (b : BufId) (e : Word), s.cfg.wf = true → s.fatal = false →
    e.toNat ≤ s.cfg.capWords →
    ((s.buf b).widx.toNat + 1 ≤ e.toNat → ∀ w : Word, ∃ t,
      runAll [.writeWord b w, .setLength b e, .setIndex b .read (s.buf b).widx, .readWord b] s =
        .next t ∧ t.result = w.setWidth 32 ∧ t.fatal = false) ∧
    ((b.kind = .tx ∨ s.cfg.rxByteLsb = 1) →
    ((s.buf b).widx.toNat + 1 ≤ e.toNat → ∀ x : Byte, ∃ t,
      runAll [.writeU8 b x, .setLength b e, .setIndex b .read (s.buf b).widx, .readU8 b] s =
        .next t ∧ t.result = x.setWidth 32 ∧ t.fatal = false) ∧
    ((s.buf b).widx.toNat + 2 ≤ e.toNat →
      (∃ t, runAll [.writeCrc b, .setLength b e, .setIndex b .read (s.buf b).widx, .readCrc b] s =
        .next t ∧ t.fatal = false ∧
        t.result = (crc16 (s.bytesAt b (s.buf b).fstart.toNat
          ((s.buf b).widx.toNat - (s.buf b).fstart.toNat)).1).setWidth 32) ∧
      (∀ v : Word, ∃ t, runAll [.writeU16 b v, .setLength b e,
        .setIndex b .read (s.buf b).widx, .readU16 b] s = .next t ∧
        t.result = v.setWidth 32 ∧ t.fatal = false) ∧
      (∀ v : Word, ∃ t, runAll [.writeU16 b v, .setLength b e,
        .setIndex b .read (s.buf b).widx, .readCrc b] s = .next t ∧
        t.result = (v.extractLsb' 0 8 ++ v.extractLsb' 8 8).setWidth 32) ∧
      (∀ v : Word, ∃ t, runAll [.writeU16 b v, .setLength b e,
        .setIndex b .read (s.buf b).widx, .readU8 b] s = .next t ∧
        t.result = (v.extractLsb' 8 8).setWidth 32 ∧
        ∃ u, exec (.readU8 b) t = .next u ∧ u.result = (v.extractLsb' 0 8).setWidth 32) ∧
      (∀ x0 x1 : Byte, ∃ t, runAll [.writeU8 b x0, .writeU8 b x1, .setLength b e,
        .setIndex b .read (s.buf b).widx, .readU16 b] s = .next t ∧
        t.result = (x0 ++ x1).setWidth 32)) ∧
    ((s.buf b).widx.toNat + 4 ≤ e.toNat →
      ∀ v : DWord, ∀ w ∈ [Instr.writeU32 b v, .writeFloat b v],
        ∀ r ∈ [Instr.readU32 b, .readFloat b],
        ∃ t, runAll [w, .setLength b e, .setIndex b .read (s.buf b).widx, r] s = .next t ∧
          t.result = v ∧ t.fatal = false) ∧
    (∀ (n : Word) (xs : List Byte), xs.length = n.toNat →
      (s.buf b).widx.toNat + n.toNat ≤ e.toNat →
      ∃ t, runAll [.writeString b n xs, .setLength b e,
        .setIndex b .read (s.buf b).widx, .readString b n] s = .next t ∧
        t.rbytes = xs ∧ t.result = s.result))

/-- TX_SEND appends the words 0 to LEN−1 of its transmit buffer, in ascending order, to the stream of its
subnet, and nothing at or above LEN; no other stream, no buffer and nothing else changes, and where the words
have been written no value is drawn. Its encoding is op 0x30 with the transmit buffer's code, any ARG; a receive
buffer or a reserved code is no command (R168, R53). An unwritten word is sent as a draw (R65); that the draws come
from one numbered supply, in the order the words are sent, is the model's choice (log 6), and
`UnwrittenWordsAreFreshDraws` says what each word reads as. -/
def Obligations.TxSendAppendsTheBuffer : Prop :=
  (∀ sn arg, decode ⟨cmdWord 0x30 (BufId.code ⟨.tx, sn⟩) 0 0, arg, []⟩ = some (.txSend sn)) ∧
  (∀ c : Transaction, c.op = 0x30 → (reservedBuf c.buf = true ∨ 8 ≤ c.buf.toNat) →
    decode c = none) ∧
  ∀ (s : State) (sn : Subnet), s.fatal = false →
    ∃ t ws, exec (.txSend sn) s = .next t ∧
      (ws, t.draws) =
        Memory.readAll (s.tx.get sn).mem 0 (s.tx.get sn).len.toNat s.draws ∧
      ws.length = (s.tx.get sn).len.toNat ∧
      (∀ vs, s.Holds ⟨.tx, sn⟩ 0 vs → vs.length = (s.tx.get sn).len.toNat →
        ws = vs ∧ t.draws = s.draws) ∧
      t.txout.get sn = s.txout.get sn ++ ws ∧
      (∀ sn', sn' ≠ sn → t.txout.get sn' = s.txout.get sn') ∧
      t = { s with txout := t.txout, draws := t.draws }

/-- Words already emitted never change: a command only appends to the streams, and only TX_SEND of a subnet
appends to its stream (R62, R64, R41). -/
def Obligations.TransmitStreamsOnlyGrow : Prop :=
  ∀ (s t : State) (c : Transaction) (rest : List Input),
    s.inputs = .command c :: rest → step s = .next t →
    ∀ sn, ∃ ws, t.txout.get sn = s.txout.get sn ++ ws ∧
      (decode c ≠ some (.txSend sn) → ws = [])

/-! ## The response parser -/

/-- PARSE of a buffer that is not RX1 to RX5 sets UNKNOWN_SUBNET and has no other effect; its other
illegal-command conditions are checked first and are fatal (R195). -/
def Obligations.ParseOfNonReceiveBufferWarns : Prop :=
  ∀ (s : State) (t : Transaction) (rest : List Input),
    s.cfg.wf = true → s.fatal = false → s.inputs = .command t :: rest → t.op = 0x40 →
    (t.buf.toNat < 8 ∨ 12 < t.buf.toNat) →
    ((t.sub = 0 ∧ t.imm = 0 ∧ t.bytes = []) →
      step s = .next { s with inputs := rest, unknownSubnet := true }) ∧
    (¬(t.sub = 0 ∧ t.imm = 0 ∧ t.bytes = []) →
      step s = .next { s with
        inputs := rest, fatal := true, fcause := 4, fcmd := t.cmd, pstate := .idle })

/-- PARSE of a receive buffer always ends, with PSTATE back in P_IDLE, whatever the words are: RIDX_b is at the end
of the data (or where it was, if that is further), or, where a record of a class-code-3 device took the fatal
fault, RIDX_b is where it was. On a subnet with no such device it is never the fault. A second PARSE then changes
nothing: it finds no records, or the fatal state refuses it (R37, R193, R194, R234, R236). -/
def Obligations.ParseCommitsTheReadCursor : Prop :=
  ∀ (s : State) (code : BitVec 4) (sn : Subnet), s.cfg.wf = true → s.fatal = false →
    rxOfCode code = some sn →
    ∃ t, exec (.parse code) s = .next t ∧ t.pstate = .idle ∧
      ((∀ a i, Config.device? s.cfg sn a ≠ some (none, i)) → t.fatal = false) ∧
      t.rx.get sn = { s.rx.get sn with ridx := (t.rx.get sn).ridx } ∧
      (t.fatal = false →
        (t.rx.get sn).ridx.toNat = max (s.rx.get sn).ridx.toNat (s.rx.get sn).len.toNat) ∧
      (t.fatal = true → t.rx = s.rx) ∧
      exec (.parse code) t = .next t

/-- PARSE of a receive buffer does what the outcome table says, record by record and in the buffer's order:
rows 3 to 11 for each whole record, rows 1 and 2 for what is left after the last; a class-code-3 record stops it
with the fatal fault, keeping what the earlier records did and its own timestamp, and the read cursor as it was
(R182 to R193, R196, R236). The unparsed words are written words here, so no value is drawn. -/
def Obligations.ParseFollowsTheOutcomeTable : Prop :=
  ∀ (s : State) (code : BitVec 4) (sn : Subnet) (recs : List (List Word × List Byte))
    (tail : List Word),
    s.cfg.wf = true → s.fatal = false → rxOfCode code = some sn → RxHolds s sn recs tail →
    exec (.parse code) s =
      .next (parseRecords sn ((Instr.parse code).cmd s.cfg) tail recs s)

/-- A truncated header or body with no record before it ends the parse with INVALID_LENGTH on its subnet: no
device is credited, no telemetry is written, and the read cursor goes to the end (R182, R183, rows 1 and 2 of
R196). -/
def Obligations.TruncatedRecordEndsTheParse : Prop :=
  ∀ (s : State) (code : BitVec 4) (sn : Subnet) (tail : List Word),
    s.cfg.wf = true → s.fatal = false → rxOfCode code = some sn → tail ≠ [] →
    RxHolds s sn [] tail →
    ∃ t, exec (.parse code) s = .next t ∧
      t.subwarn = s.subwarn.set sn (s.subwarn.get sn ||| 0x2) ∧
      t.rx = s.rx.set sn { s.rx.get sn with ridx := (s.rx.get sn).len } ∧
      (∀ sn', sn' ≠ sn → t.rxts.get sn' = s.rxts.get sn') ∧
      (tail.length < s.cfg.hdrWords → t.rxts = s.rxts) ∧
      t = { s with subwarn := t.subwarn, rx := t.rx, rxts := t.rxts, pstate := .idle }

/-- A CRC-valid response of a known device, with a function code the shape table maps and of the shape's
length, is decoded into that device's telemetry, credited once, and its timestamp words are kept, the first
the most significant; nothing else changes (R182, R191, R192). -/
def Obligations.WellFormedResponseIsDecoded : Prop :=
  ∀ (s : State) (code : BitVec 4) (sn : Subnet) (ws : List Word) (a fc lo hi : Byte)
    (pl : List Byte) (c : DevClass) (i len : Nat) (d : Decoder),
    s.Inv → s.fatal = false → rxOfCode code = some sn →
    RxHolds s sn [(ws, a :: fc :: (pl ++ [lo, hi]))] [] →
    crc16 (a :: fc :: pl) = hi ++ lo →
    Config.device? s.cfg sn a = some (some c, i) → fc.toNat < 128 →
    Config.shape? s.cfg c fc = some (len, d) → len = pl.length + 4 →
    ∃ t, exec (.parse code) s = .next t ∧
      t.tel = s.tel.set c i (Decoder.apply d (s.tel.get c i s.cfg.tel0) pl) ∧
      (s.exp.get c i 0 ≠ 0 →
        t.exp = s.exp.set c i (s.exp.get c i 0 - 1) ∧ t.devwarn = s.devwarn) ∧
      (s.exp.get c i 0 = 0 →
        t.exp = s.exp ∧ t.devwarn = s.devwarn.set c i (s.devwarn.get c i 0 ||| 0x20)) ∧
      (s.cfg.hdrWords = 1 → t.rxts = s.rxts) ∧
      (∀ w1, s.cfg.hdrWords = 2 → ws[1]? = some w1 →
        t.rxts = s.rxts.set sn (w1.setWidth 32)) ∧
      (∀ w1 w2, s.cfg.hdrWords = 3 → ws[1]? = some w1 → ws[2]? = some w2 →
        t.rxts = s.rxts.set sn (w1 ++ w2)) ∧
      t.rx = s.rx.set sn { s.rx.get sn with ridx := (s.rx.get sn).len } ∧
      t = { s with tel := t.tel, exp := t.exp, devwarn := t.devwarn, rxts := t.rxts, rx := t.rx }

/-- An exception response of a known device sets the DEVWARN bit of its exception code, or UNKNOWN_EXCEPTION
for a code EXC_MAP does not map, is credited once, and writes no telemetry; its timestamp words are kept, the
first the most significant, and nothing else changes (R182, R188, R192). -/
def Obligations.ExceptionResponseSetsItsWarning : Prop :=
  ∀ (s : State) (code : BitVec 4) (sn : Subnet) (ws : List Word) (a fc ec lo hi : Byte)
    (c : DevClass) (i : Nat),
    s.Inv → s.fatal = false → rxOfCode code = some sn →
    RxHolds s sn [(ws, [a, fc, ec, lo, hi])] [] →
    crc16 [a, fc, ec] = hi ++ lo →
    Config.device? s.cfg sn a = some (some c, i) → 128 ≤ fc.toNat →
    ∃ t, exec (.parse code) s = .next t ∧ t.tel = s.tel ∧ t.subwarn = s.subwarn ∧
      (∀ w, w = (match Config.exception? s.cfg ec with
          | some .illegalFunction => 0x01#6
          | some .illegalDataAddress => 0x02#6
          | some .illegalDataValue => 0x04#6
          | some .deviceInvalidLength => 0x08#6
          | none => 0x10#6) →
        (s.exp.get c i 0 ≠ 0 →
          t.exp = s.exp.set c i (s.exp.get c i 0 - 1) ∧
          t.devwarn = s.devwarn.set c i (s.devwarn.get c i 0 ||| w)) ∧
        (s.exp.get c i 0 = 0 →
          t.exp = s.exp ∧
          t.devwarn = s.devwarn.set c i (s.devwarn.get c i 0 ||| w ||| 0x20))) ∧
      (s.cfg.hdrWords = 1 → t.rxts = s.rxts) ∧
      (∀ w1, s.cfg.hdrWords = 2 → ws[1]? = some w1 →
        t.rxts = s.rxts.set sn (w1.setWidth 32)) ∧
      (∀ w1 w2, s.cfg.hdrWords = 3 → ws[1]? = some w1 → ws[2]? = some w2 →
        t.rxts = s.rxts.set sn (w1 ++ w2)) ∧
      t.rx = s.rx.set sn { s.rx.get sn with ridx := (s.rx.get sn).len } ∧
      t = { s with exp := t.exp, devwarn := t.devwarn, rxts := t.rxts, rx := t.rx }

/-- PARSE of subnet s changes only SUBWARN[s], RXTS[s], the read cursor of RX_s, and the EXP, TEL and DEVWARN
entries of devices DMAP places on s, but for the fatal fault it may take and the count of draws (R243). -/
def Obligations.ParseChangesOnlyItsSubnet : Prop :=
  ∀ (s t : State) (code : BitVec 4) (sn : Subnet), rxOfCode code = some sn →
    exec (.parse code) s = .next t →
    (∀ sn', sn' ≠ sn →
      t.subwarn.get sn' = s.subwarn.get sn' ∧ t.rxts.get sn' = s.rxts.get sn') ∧
    OtherBuffersSame ⟨.rx, sn⟩ s t ∧
    t.rx.get sn = { s.rx.get sn with ridx := (t.rx.get sn).ridx } ∧
    (∀ c i, ¬Config.onSubnet s.cfg sn c i →
      t.exp.get c i 0 = s.exp.get c i 0 ∧
      t.tel.get c i s.cfg.tel0 = s.tel.get c i s.cfg.tel0 ∧
      t.devwarn.get c i 0 = s.devwarn.get c i 0) ∧
    t = { s with
      subwarn := t.subwarn, rxts := t.rxts, rx := t.rx, exp := t.exp, tel := t.tel,
      devwarn := t.devwarn, draws := t.draws, fatal := t.fatal, fcause := t.fcause,
      fcmd := t.fcmd, pstate := t.pstate }

/-- PARSE of one subnet cannot learn anything of the others: from two states that agree on the subnet's receive
buffer, warnings, timestamp and devices it leaves two states that agree on them (R243). To agree is also to have
the same configuration, the same fault registers (in the fatal state PARSE is refused, R234) and the same count of
draws (the model's choice of one numbered supply of free values, log 6). -/
def Obligations.ParseDependsOnlyOnItsSubnet : Prop :=
  ∀ (s s' t t' : State) (code : BitVec 4) (sn : Subnet), s.Inv → s'.Inv →
    rxOfCode code = some sn → AgreeOnSubnet sn s s' →
    exec (.parse code) s = .next t → exec (.parse code) s' = .next t' → AgreeOnSubnet sn t t'

/-- Crediting one response takes the counter down by one, never below 0, and where nothing is owed sets
UNEXPECTED_RESPONSE of that device instead; no other counter or warning changes (R192). -/
def Obligations.AccountCreditsOneResponse : Prop :=
  ∀ (s : State) (c : DevClass) (i : Nat), s.Inv → i < s.cfg.count c →
    (0 < (s.exp.get c i 0).toNat →
      ((s.account c i).exp.get c i 0).toNat = (s.exp.get c i 0).toNat - 1 ∧
      (s.account c i).devwarn = s.devwarn) ∧
    ((s.exp.get c i 0).toNat = 0 →
      (s.account c i).exp = s.exp ∧
      (s.account c i).devwarn.get c i 0 = s.devwarn.get c i 0 ||| 0x20) ∧
    (∀ c' i', ¬(c' = c ∧ i' = i) →
      (s.account c i).exp.get c' i' 0 = s.exp.get c' i' 0 ∧
      (s.account c i).devwarn.get c' i' 0 = s.devwarn.get c' i' 0) ∧
    s.account c i =
      { s with exp := (s.account c i).exp, devwarn := (s.account c i).devwarn }

/-- After one PARSE every counter has gone down by exactly the number of records that credit its device, never
below 0, and UNEXPECTED_RESPONSE of a device is set just when more came than were owed or it was set before
(R192, R196, R207). -/
def Obligations.AccountingOfOneBufferIsExact : Prop :=
  ∀ (s : State) (code : BitVec 4) (sn : Subnet) (recs : List (List Word × List Byte))
    (tail : List Word),
    s.Inv → s.fatal = false → rxOfCode code = some sn → RxHolds s sn recs tail →
    NoClassThree s.cfg sn recs →
    ∃ t, exec (.parse code) s = .next t ∧ t.fatal = false ∧
      ∀ c i, i < s.cfg.count c →
        (t.exp.get c i 0).toNat =
          (s.exp.get c i 0).toNat - creditCount s.cfg sn recs c i ∧
        (t.devwarn.get c i 0).getLsbD 5 =
          ((s.devwarn.get c i 0).getLsbD 5 ||
            decide ((s.exp.get c i 0).toNat < creditCount s.cfg sn recs c i))

/-- Completeness of accounting: where the five receive buffers together hold exactly as many crediting records
as each device owes, then after one PARSE of each of them every counter is 0, VERIFY_RESPONSES returns 0 and
flags no device, and no UNEXPECTED_RESPONSE bit was set (R207). -/
def Obligations.AllBuffersParsedLeavesNothingOwed : Prop :=
  ∀ (s : State) (recs : Subnet → List (List Word × List Byte)) (tail : Subnet → List Word),
    s.Inv → s.fatal = false → (∀ sn, RxHolds s sn (recs sn) (tail sn)) →
    (∀ sn, NoClassThree s.cfg sn (recs sn)) →
    (∀ c i, i < s.cfg.count c → (s.exp.get c i 0).toNat =
      creditCount s.cfg .s1 (recs .s1) c i + creditCount s.cfg .s2 (recs .s2) c i +
      creditCount s.cfg .s3 (recs .s3) c i + creditCount s.cfg .s4 (recs .s4) c i +
      creditCount s.cfg .s5 (recs .s5) c i) →
    ∃ t, runAll [.parse 8, .parse 9, .parse 10, .parse 11, .parse 12, .verifyResponses] s =
        .next t ∧
      t.fatal = false ∧ t.result = 0 ∧
      ∀ c i, i < s.cfg.count c → t.exp.get c i 0 = 0 ∧ t.timeout.get c i false = false ∧
        (t.devwarn.get c i 0).getLsbD 5 = (s.devwarn.get c i 0).getLsbD 5

/-! ## Verification, counters and warning registers -/

/-- VERIFY_RESPONSES, op 0x41 with every other CMD bit 0 and any ARG, overwrites TIMEOUT of every device with
whether it is still owed a response, and no other; returns how many are; leaves the counters and all else alone;
raises nothing; and a second one changes nothing (R197). The count is given for fewer than 2^32 devices, as
RESULT holds 32 bits. -/
def Obligations.VerifyFlagsExactlyOwedDevices : Prop :=
  (∀ arg, decode ⟨0x41000000, arg, []⟩ = some .verifyResponses) ∧
  ∀ (s : State), s.Inv → s.fatal = false →
    ∃ t, exec .verifyResponses s = .next t ∧
      (∀ c i, i < s.cfg.count c →
        (t.timeout.get c i false = true ↔ s.exp.get c i 0 ≠ 0)) ∧
      (∀ c, (t.timeout.file c).length = s.cfg.count c) ∧
      (s.cfg.nfa + 6 + s.cfg.nhm < 2 ^ 32 → t.result.toNat =
        ([DevClass.fa, .hp, .hm].map fun c =>
          (List.range (s.cfg.count c)).countP fun i => s.exp.get c i 0 != 0).sum) ∧
      t = { s with timeout := t.timeout, result := t.result } ∧
      exec .verifyResponses t = .next t

/-- SET_EXPECTED sets one counter, GET_EXPECTED returns one, CLEAR_EXPECTED zeroes all of them and leaves TIMEOUT
alone; each changes nothing else (R198, R199, R200). -/
def Obligations.ExpectedCountersAreSetReadAndCleared : Prop :=
  ∀ (s : State) (c : DevClass) (i : Word) (e : BitVec 2), s.Inv → s.fatal = false →
    i.toNat < s.cfg.count c →
    (∃ t, exec (.setExpected c i e) s = .next t ∧ t.exp.get c i.toNat 0 = e ∧
      (∀ c' i', ¬(c' = c ∧ i' = i.toNat) → t.exp.get c' i' 0 = s.exp.get c' i' 0) ∧
      t = { s with exp := t.exp }) ∧
    exec (.getExpected c i) s =
      .next { s with result := (s.exp.get c i.toNat 0).setWidth 32 } ∧
    (∃ t, exec .clearExpected s = .next t ∧
      (∀ c', t.exp.file c' = List.replicate (s.cfg.count c') 0) ∧ t = { s with exp := t.exp })

/-- READ_STATUS returns the STATUS view bit for bit, in the fatal state too, and changes nothing else; bits 3:1
and 11:9 are 0 (R36, R201, R234). -/
def Obligations.StatusReadShowsTheFlags : Prop :=
  ∀ (s : State), ∃ v, exec .readStatus s = .next { s with result := v } ∧
    v.getLsbD 0 = s.fatal ∧ v.extractLsb' 1 3 = 0 ∧ v.extractLsb' 4 4 = s.fcause ∧
    v.getLsbD 8 = s.unknownSubnet ∧ v.extractLsb' 9 3 = 0 ∧
    v.extractLsb' 12 4 = s.subwarn.get .s1 ∧ v.extractLsb' 16 4 = s.subwarn.get .s2 ∧
    v.extractLsb' 20 4 = s.subwarn.get .s3 ∧ v.extractLsb' 24 4 = s.subwarn.get .s4 ∧
    v.extractLsb' 28 4 = s.subwarn.get .s5

/-- READ_FAULTCMD returns FCMD, in the fatal state too; READ_DEVWARN, READ_TIMEOUT and READ_RXTS return their
register zero-extended; each changes nothing but RESULT (R202, R203, R205, R206). -/
def Obligations.RegisterReadsReturnThem : Prop :=
  ∀ (s : State) (c : DevClass) (i : Word) (sn : Subnet),
    exec .readFaultcmd s = .next { s with result := s.fcmd } ∧
    (s.fatal = false → i.toNat < s.cfg.count c →
      exec (.readDevwarn c i) s =
        .next { s with result := (s.devwarn.get c i.toNat 0).setWidth 32 } ∧
      exec (.readTimeout c i) s = .next { s with
        result := if s.timeout.get c i.toNat false then 1 else 0 }) ∧
    (s.fatal = false → exec (.readRxts sn) s = .next { s with result := s.rxts.get sn })

/-- CLEAR_WARNINGS, op 0x48 with every other CMD bit 0 and any ARG, zeroes SUBWARN, UNKNOWN_SUBNET and DEVWARN of
every subnet and device and touches nothing else, TIMEOUT, EXP and the fault registers included; raises nothing;
and READ_STATUS then returns 0 (R204). -/
def Obligations.ClearWarningsClearsOnlyWarnings : Prop :=
  (∀ arg, decode ⟨0x48000000, arg, []⟩ = some .clearWarnings) ∧
  ∀ (s : State), s.Inv → s.fatal = false →
    ∃ t, exec .clearWarnings s = .next t ∧ (∀ sn, t.subwarn.get sn = 0) ∧
      t.unknownSubnet = false ∧
      (∀ c, t.devwarn.file c = List.replicate (s.cfg.count c) 0) ∧
      t = { s with
        subwarn := t.subwarn, unknownSubnet := t.unknownSubnet, devwarn := t.devwarn } ∧
      exec .readStatus t = .next { t with result := 0 }

/-- A warning bit is sticky: no command but CLEAR_WARNINGS clears a bit of SUBWARN, of DEVWARN or UNKNOWN_SUBNET
(R30, R32, R33, R239). -/
def Obligations.WarningsAreSticky : Prop :=
  ∀ (s t : State) (i : Instr), i ≠ .clearWarnings → exec i s = .next t →
    (∀ sn, s.subwarn.get sn &&& t.subwarn.get sn = s.subwarn.get sn) ∧
    (∀ c j, s.devwarn.get c j 0 &&& t.devwarn.get c j 0 = s.devwarn.get c j 0) ∧
    (s.unknownSubnet = true → t.unknownSubnet = true)

/-! ## Whole-machine rules -/

/-- A command leaves every state element alone that R41's table does not list it under; no command writes the
configuration or the host's inputs; the fault registers change by fatal entry alone, which records the command
word; and PSTATE ends as it was or in P_IDLE (R41, R37). -/
def Obligations.OnlyTheirCommandsWriteState : Prop :=
  ∀ (i : Instr) (s t : State), s.cfg.wf = true → exec i s = .next t →
    (∀ e, e ∉ writesElements i → Element.Same s t e) ∧ t.cfg = s.cfg ∧ t.inputs = s.inputs ∧
    ((t.fatal = s.fatal ∧ t.fcause = s.fcause ∧ t.fcmd = s.fcmd) ∨
      (s.fatal = false ∧ t.fatal = true ∧ t.fcmd = i.cmd s.cfg)) ∧
    (t.pstate = s.pstate ∨ t.pstate = .idle)

/-- No write command changes LEN_b, RIDX_b or FSTART_b of any buffer, and no command but SET_LENGTH and CLEAR
changes any LEN_b (R121). -/
def Obligations.WritesLeaveLengthAndReadCursor : Prop :=
  ∀ (i : Instr) (s t : State) (b : BufId), exec i s = .next t →
    (isWrite s.cfg i → (t.buf b).len = (s.buf b).len ∧ (t.buf b).ridx = (s.buf b).ridx ∧
      (t.buf b).fstart = (s.buf b).fstart) ∧
    ((∀ b' v, i ≠ .setLength b' v) → (∀ b', i ≠ .clear b') →
      (t.buf b).len = (s.buf b).len)

/-- The eight FIFO word formats are no commands: met as a CMD word each is an illegal command, so outside the
fatal state it takes the ILLEGAL_COMMAND fault and does nothing else (R80 (a); that the row's word is the low
half of CMD is the model's choice, log 1, and that a receive body word has 0 outside its byte field, which FCMD
shows, is another, log 15). -/
def Obligations.FifoWordsAreNoCommands : Prop :=
  ∀ (s : State) (x : Byte) (n : Word), s.fatal = false →
    ∀ i ∈ [Instr.txDataWord x, .txDelayWord n, .txTriggerWord, .txEofWord, .txTimestampWord,
      .rxLengthWord n, .rxTimestampWord n, .rxDataWord x],
      decode (encode s.cfg i) = none ∧
      exec i s = .next { s with
        fatal := true, fcause := 4, fcmd := (fifoWord s.cfg i).setWidth 32, pstate := .idle }
end

