-- ==== Sys2Proof/Laws/Codes.lean ====
section
/-! SUPPORT. The field codes read back (30_encoding.md R71 to R74). -/

namespace Sys2Proof

@[simp] theorem bufOfCode_code (b : BufId) : bufOfCode b.code = some b := by
  obtain ⟨k, sn⟩ := b
  cases k <;> cases sn <;> rfl

@[simp] theorem txOfCode_code (sn : Subnet) : txOfCode (BufId.code ⟨.tx, sn⟩) = some sn := by
  cases sn <;> rfl

@[simp] theorem rxOfCode_code (sn : Subnet) : rxOfCode (BufId.code ⟨.rx, sn⟩) = some sn := by
  cases sn <;> rfl

@[simp] theorem classOfCode_code (c : DevClass) : classOfCode c.code = some c := by
  cases c <;> rfl

@[simp] theorem cursorOfSub_code (c : Cursor) : cursorOfSub c.code = some c := by
  cases c <;> rfl

/-- The `op` field of an assembled CMD word (R84). -/
@[simp] theorem cmdWord_op (op : BitVec 8) (buf sub : BitVec 4) (imm : Word) :
    (cmdWord op buf sub imm).extractLsb' 24 8 = op := by
  ext i hi; simp [cmdWord]; grind

/-- The `buf` field of an assembled CMD word (R84). -/
@[simp] theorem cmdWord_buf (op : BitVec 8) (buf sub : BitVec 4) (imm : Word) :
    (cmdWord op buf sub imm).extractLsb' 20 4 = buf := by
  ext i hi; simp [cmdWord]; grind

/-- The `sub` field of an assembled CMD word (R84). -/
@[simp] theorem cmdWord_sub (op : BitVec 8) (buf sub : BitVec 4) (imm : Word) :
    (cmdWord op buf sub imm).extractLsb' 16 4 = sub := by
  ext i hi; simp [cmdWord]; grind

/-- The `imm` field of an assembled CMD word (R84). -/
@[simp] theorem cmdWord_imm (op : BitVec 8) (buf sub : BitVec 4) (imm : Word) :
    (cmdWord op buf sub imm).extractLsb' 0 16 = imm := by
  ext i hi; simp [cmdWord]; grind

end Sys2Proof
end

