-- ==== Sys2Proof/Laws/State.lean ====
section
/-! SUPPORT. The small lemmas of the state's updates: what each field reads after each of them. -/

namespace Sys2Proof.Machine

open Sys2Proof

variable {α : Type}

/-! ## Per-subnet elements -/

@[simp] theorem PerSubnet.get_set_same (p : PerSubnet α) (sn : Subnet) (a : α) :
    (p.set sn a).get sn = a := by cases sn <;> rfl

@[simp] theorem PerSubnet.get_set_other (p : PerSubnet α) {sn sn' : Subnet} (a : α)
    (h : sn' ≠ sn) : (p.set sn a).get sn' = p.get sn' := by
  cases sn <;> cases sn' <;> first | rfl | exact absurd rfl h

theorem PerSubnet.get_set (p : PerSubnet α) (sn sn' : Subnet) (a : α) :
    (p.set sn a).get sn' = if sn' = sn then a else p.get sn' := by
  by_cases h : sn' = sn
  · subst h; simp
  · simp [h]

@[simp] theorem PerSubnet.get_const (a : α) (sn : Subnet) : (PerSubnet.const a).get sn = a := by
  cases sn <;> rfl

@[simp] theorem PerSubnet.set_get (p : PerSubnet α) (sn : Subnet) : p.set sn (p.get sn) = p := by
  cases sn <;> rfl

theorem PerSubnet.ext_get {p q : PerSubnet α} (h : ∀ sn, p.get sn = q.get sn) : p = q := by
  have h1 := h .s1
  have h2 := h .s2
  have h3 := h .s3
  have h4 := h .s4
  have h5 := h .s5
  cases p; cases q
  simp_all [PerSubnet.get]

/-! ## Per-device files -/

@[simp] theorem DevFile.file_set_same (f : DevFile α) (c : DevClass) (i : Nat) (a : α) :
    (f.set c i a).file c = (f.file c).set i a := by cases c <;> rfl

@[simp] theorem DevFile.file_set_other (f : DevFile α) {c c' : DevClass} (i : Nat) (a : α)
    (h : c' ≠ c) : (f.set c i a).file c' = f.file c' := by
  cases c <;> cases c' <;> first | rfl | exact absurd rfl h

@[simp] theorem DevFile.file_map {β : Type} (f : DevFile α) (g : α → β) (c : DevClass) :
    (f.map g).file c = (f.file c).map g := by cases c <;> rfl

@[simp] theorem DevFile.file_const (cfg : Config) (a : α) (c : DevClass) :
    (DevFile.const cfg a).file c = List.replicate (cfg.count c) a := by cases c <;> rfl

theorem DevFile.get_set_same (f : DevFile α) {c : DevClass} {i : Nat} (a d : α)
    (h : i < (f.file c).length) : (f.set c i a).get c i d = a := by
  simp [DevFile.get, h]

theorem DevFile.get_set_other (f : DevFile α) {c c' : DevClass} {i i' : Nat} (a d : α)
    (h : ¬(c' = c ∧ i' = i)) : (f.set c i a).get c' i' d = f.get c' i' d := by
  by_cases hc : c' = c
  · subst hc
    have hi : i ≠ i' := fun e => h ⟨rfl, e.symm⟩
    simp [DevFile.get, List.getElem?_set_ne hi]
  · simp [DevFile.get, hc]

theorem DevFile.Sized.set {cfg : Config} {f : DevFile α} (h : f.Sized cfg) (c : DevClass)
    (i : Nat) (a : α) : (f.set c i a).Sized cfg := by
  intro c'
  by_cases hc : c' = c
  · subst hc; simp [h c']
  · simp [hc, h c']

theorem DevFile.Sized.map {β : Type} {cfg : Config} {f : DevFile α} (h : f.Sized cfg)
    (g : α → β) : (f.map g).Sized cfg := fun c => by simp [h c]

theorem DevFile.sized_const (cfg : Config) (a : α) : (DevFile.const cfg a).Sized cfg :=
  fun c => by simp

/-! ## Buffers -/

@[simp] theorem State.buf_setBuf_same (s : State) (b : BufId) (x : Buffer) :
    (s.setBuf b x).buf b = x := by
  obtain ⟨k, sn⟩ := b
  cases k <;> simp [State.buf, State.setBuf]

@[simp] theorem State.buf_setBuf_other (s : State) {b b' : BufId} (x : Buffer) (h : b' ≠ b) :
    (s.setBuf b x).buf b' = s.buf b' := by
  obtain ⟨k, sn⟩ := b
  obtain ⟨k', sn'⟩ := b'
  cases k <;> cases k' <;> simp [State.buf, State.setBuf] <;>
    exact PerSubnet.get_set_other _ _ fun e => h (by rw [e])

@[simp] theorem State.setBuf_cfg (s : State) (b : BufId) (x : Buffer) :
    (s.setBuf b x).cfg = s.cfg := by unfold State.setBuf; split <;> rfl
@[simp] theorem State.setBuf_inputs (s : State) (b : BufId) (x : Buffer) :
    (s.setBuf b x).inputs = s.inputs := by unfold State.setBuf; split <;> rfl
@[simp] theorem State.setBuf_draws (s : State) (b : BufId) (x : Buffer) :
    (s.setBuf b x).draws = s.draws := by unfold State.setBuf; split <;> rfl
@[simp] theorem State.setBuf_result (s : State) (b : BufId) (x : Buffer) :
    (s.setBuf b x).result = s.result := by unfold State.setBuf; split <;> rfl
@[simp] theorem State.setBuf_rbytes (s : State) (b : BufId) (x : Buffer) :
    (s.setBuf b x).rbytes = s.rbytes := by unfold State.setBuf; split <;> rfl
@[simp] theorem State.setBuf_exp (s : State) (b : BufId) (x : Buffer) :
    (s.setBuf b x).exp = s.exp := by unfold State.setBuf; split <;> rfl
@[simp] theorem State.setBuf_tel (s : State) (b : BufId) (x : Buffer) :
    (s.setBuf b x).tel = s.tel := by unfold State.setBuf; split <;> rfl
@[simp] theorem State.setBuf_devwarn (s : State) (b : BufId) (x : Buffer) :
    (s.setBuf b x).devwarn = s.devwarn := by unfold State.setBuf; split <;> rfl
@[simp] theorem State.setBuf_timeout (s : State) (b : BufId) (x : Buffer) :
    (s.setBuf b x).timeout = s.timeout := by unfold State.setBuf; split <;> rfl
@[simp] theorem State.setBuf_subwarn (s : State) (b : BufId) (x : Buffer) :
    (s.setBuf b x).subwarn = s.subwarn := by unfold State.setBuf; split <;> rfl
@[simp] theorem State.setBuf_unknownSubnet (s : State) (b : BufId) (x : Buffer) :
    (s.setBuf b x).unknownSubnet = s.unknownSubnet := by unfold State.setBuf; split <;> rfl
@[simp] theorem State.setBuf_rxts (s : State) (b : BufId) (x : Buffer) :
    (s.setBuf b x).rxts = s.rxts := by unfold State.setBuf; split <;> rfl
@[simp] theorem State.setBuf_fatal (s : State) (b : BufId) (x : Buffer) :
    (s.setBuf b x).fatal = s.fatal := by unfold State.setBuf; split <;> rfl
@[simp] theorem State.setBuf_fcause (s : State) (b : BufId) (x : Buffer) :
    (s.setBuf b x).fcause = s.fcause := by unfold State.setBuf; split <;> rfl
@[simp] theorem State.setBuf_fcmd (s : State) (b : BufId) (x : Buffer) :
    (s.setBuf b x).fcmd = s.fcmd := by unfold State.setBuf; split <;> rfl
@[simp] theorem State.setBuf_pstate (s : State) (b : BufId) (x : Buffer) :
    (s.setBuf b x).pstate = s.pstate := by unfold State.setBuf; split <;> rfl
@[simp] theorem State.setBuf_txout (s : State) (b : BufId) (x : Buffer) :
    (s.setBuf b x).txout = s.txout := by unfold State.setBuf; split <;> rfl

/-- Replacing a buffer changes nothing but the buffers. -/
theorem State.setBuf_sameButBuffers (s : State) (b : BufId) (x : Buffer) :
    SameButBuffers s (s.setBuf b x) := by
  unfold SameButBuffers State.setBuf; split <;> rfl

theorem State.setBuf_otherBuffersSame (s : State) (b : BufId) (x : Buffer) :
    OtherBuffersSame b s (s.setBuf b x) := fun _ h => State.buf_setBuf_other s x h

/-- The receive buffer of a subnet after replacing it. -/
@[simp] theorem State.setBuf_rx (s : State) (sn : Subnet) (x : Buffer) :
    (s.setBuf ⟨.rx, sn⟩ x).rx = s.rx.set sn x := rfl
@[simp] theorem State.setBuf_rx_tx (s : State) (sn : Subnet) (x : Buffer) :
    (s.setBuf ⟨.rx, sn⟩ x).tx = s.tx := rfl
/-- Counting draws leaves the buffers alone. -/
@[simp] theorem State.buf_withDraws (s : State) (d : Nat) (b : BufId) :
    State.buf { s with draws := d } b = s.buf b := rfl

/-- Writing a buffer back as it is changes nothing. -/
@[simp] theorem State.setBuf_buf (s : State) (b : BufId) : s.setBuf b (s.buf b) = s := by
  obtain ⟨k, sn⟩ := b
  cases k <;> cases sn <;> rfl

@[simp] theorem State.buf_rx (s : State) (sn : Subnet) : s.buf ⟨.rx, sn⟩ = s.rx.get sn := rfl
@[simp] theorem State.buf_tx (s : State) (sn : Subnet) : s.buf ⟨.tx, sn⟩ = s.tx.get sn := rfl

/-! ## Fatal entry (R233) -/

theorem State.raise_of_safe {s : State} (h : s.fatal = false) (c : Cause) (cmd : DWord) :
    s.raise c cmd = { s with fatal := true, fcause := c.code, fcmd := cmd, pstate := .idle } := by
  simp [State.raise, h]

@[simp] theorem State.raise_fatal (s : State) (c : Cause) (cmd : DWord) :
    (s.raise c cmd).fatal = true := by
  unfold State.raise; split <;> simp_all

@[simp] theorem State.raise_pstate (s : State) (c : Cause) (cmd : DWord) :
    (s.raise c cmd).pstate = .idle := by unfold State.raise; split <;> rfl
@[simp] theorem State.raise_cfg (s : State) (c : Cause) (cmd : DWord) :
    (s.raise c cmd).cfg = s.cfg := by unfold State.raise; split <;> rfl
@[simp] theorem State.raise_inputs (s : State) (c : Cause) (cmd : DWord) :
    (s.raise c cmd).inputs = s.inputs := by unfold State.raise; split <;> rfl
@[simp] theorem State.raise_draws (s : State) (c : Cause) (cmd : DWord) :
    (s.raise c cmd).draws = s.draws := by unfold State.raise; split <;> rfl
@[simp] theorem State.raise_tx (s : State) (c : Cause) (cmd : DWord) :
    (s.raise c cmd).tx = s.tx := by unfold State.raise; split <;> rfl
@[simp] theorem State.raise_rx (s : State) (c : Cause) (cmd : DWord) :
    (s.raise c cmd).rx = s.rx := by unfold State.raise; split <;> rfl
@[simp] theorem State.raise_result (s : State) (c : Cause) (cmd : DWord) :
    (s.raise c cmd).result = s.result := by unfold State.raise; split <;> rfl
@[simp] theorem State.raise_rbytes (s : State) (c : Cause) (cmd : DWord) :
    (s.raise c cmd).rbytes = s.rbytes := by unfold State.raise; split <;> rfl
@[simp] theorem State.raise_exp (s : State) (c : Cause) (cmd : DWord) :
    (s.raise c cmd).exp = s.exp := by unfold State.raise; split <;> rfl
@[simp] theorem State.raise_tel (s : State) (c : Cause) (cmd : DWord) :
    (s.raise c cmd).tel = s.tel := by unfold State.raise; split <;> rfl
@[simp] theorem State.raise_devwarn (s : State) (c : Cause) (cmd : DWord) :
    (s.raise c cmd).devwarn = s.devwarn := by unfold State.raise; split <;> rfl
@[simp] theorem State.raise_timeout (s : State) (c : Cause) (cmd : DWord) :
    (s.raise c cmd).timeout = s.timeout := by unfold State.raise; split <;> rfl
@[simp] theorem State.raise_subwarn (s : State) (c : Cause) (cmd : DWord) :
    (s.raise c cmd).subwarn = s.subwarn := by unfold State.raise; split <;> rfl
@[simp] theorem State.raise_unknownSubnet (s : State) (c : Cause) (cmd : DWord) :
    (s.raise c cmd).unknownSubnet = s.unknownSubnet := by unfold State.raise; split <;> rfl
@[simp] theorem State.raise_rxts (s : State) (c : Cause) (cmd : DWord) :
    (s.raise c cmd).rxts = s.rxts := by unfold State.raise; split <;> rfl
@[simp] theorem State.raise_txout (s : State) (c : Cause) (cmd : DWord) :
    (s.raise c cmd).txout = s.txout := by unfold State.raise; split <;> rfl
@[simp] theorem State.raise_buf (s : State) (c : Cause) (cmd : DWord) (b : BufId) :
    (s.raise c cmd).buf b = s.buf b := by simp [State.buf]

/-- Every cause code is one of 1 to 4 (R231). -/
theorem Cause.code_range (c : Cause) : 1 ≤ c.code.toNat ∧ c.code.toNat ≤ 4 := by
  cases c <;> decide

/-! ## Warnings, RESULT and PSTATE -/

@[simp] theorem State.warnSubnet_get_same (s : State) (sn : Subnet) (w : SubWarning) :
    (s.warnSubnet sn w).subwarn.get sn = s.subwarn.get sn ||| w.mask := by
  simp [State.warnSubnet]

@[simp] theorem State.warnSubnet_get_other (s : State) {sn sn' : Subnet} (w : SubWarning)
    (h : sn' ≠ sn) : (s.warnSubnet sn w).subwarn.get sn' = s.subwarn.get sn' := by
  simp [State.warnSubnet, h]

@[simp] theorem State.withResult_result (s : State) (v : DWord) : (s.withResult v).result = v := rfl
@[simp] theorem State.withResult_buf (s : State) (v : DWord) (b : BufId) :
    (s.withResult v).buf b = s.buf b := rfl
@[simp] theorem State.goto_pstate (s : State) (q : PState) : (s.goto q).pstate = q := rfl
@[simp] theorem State.goto_buf (s : State) (q : PState) (b : BufId) :
    (s.goto q).buf b = s.buf b := rfl

/-- What crediting one response can do (R192): one counter goes down, or one UNEXPECTED_RESPONSE bit is set,
and nothing else changes. -/
theorem State.account_cases (s : State) (c : DevClass) (i : Nat) :
    (s.exp.get c i 0 = 0 ∧
      s.account c i =
        { s with devwarn := s.devwarn.set c i (s.devwarn.get c i 0 ||| 0x20) }) ∨
    (s.exp.get c i 0 ≠ 0 ∧
      s.account c i = { s with exp := s.exp.set c i (s.exp.get c i 0 - 1) }) := by
  by_cases h : s.exp.get c i 0 = 0
  · exact .inl ⟨h, by rw [State.account, if_pos h]; rfl⟩
  · exact .inr ⟨h, by rw [State.account, if_neg h]⟩

end Sys2Proof.Machine
end

