-- ==== Sys2Proof/Laws/Memory.lean ====
section
/-! SUPPORT. The words of a buffer: reading after storing, the canonical form kept by every operation, and
what a read of consecutive words yields. -/

namespace Sys2Proof.Machine

open Sys2Proof

@[simp] theorem Memory.word?_store_same (m : Memory) (i : Nat) (v : Word) :
    Memory.word? (Memory.store m i v) i = some v := by
  induction m with
  | nil => simp [Memory.store, Memory.word?]
  | cons c m ih =>
    obtain ⟨k, w⟩ := c
    by_cases h1 : i < k
    · simp [Memory.store, Memory.word?, h1]
    · by_cases h2 : i = k
      · subst h2; simp [Memory.store, Memory.word?]
      · have h3 : ¬k = i := fun e => h2 e.symm
        simp [Memory.store, Memory.word?, h1, h2, h3, ih]

theorem Memory.word?_store_other (m : Memory) {i j : Nat} (v : Word) (h : j ≠ i) :
    Memory.word? (Memory.store m i v) j = Memory.word? m j := by
  have h' : ¬i = j := fun e => h e.symm
  induction m with
  | nil => simp [Memory.store, Memory.word?, h']
  | cons c m ih =>
    obtain ⟨k, w⟩ := c
    by_cases h1 : i < k
    · simp [Memory.store, Memory.word?, h1, h']
    · by_cases h2 : i = k
      · subst h2; simp [Memory.store, Memory.word?, h']
      · simp [Memory.store, Memory.word?, h1, h2, ih]

/-- Outside the stored indices every word reads as before. -/
theorem Memory.word?_storeAll_outside (m : Memory) (ws : List Word) {i j : Nat}
    (h : j < i ∨ i + ws.length ≤ j) :
    Memory.word? (Memory.storeAll m i ws) j = Memory.word? m j := by
  induction ws generalizing m i with
  | nil => rfl
  | cons w ws ih =>
    simp only [Memory.storeAll, List.length_cons] at *
    rw [ih _ (by omega), Memory.word?_store_other _ _ (by omega)]

/-- The k-th stored word reads back. -/
theorem Memory.word?_storeAll_inside (m : Memory) (ws : List Word) (i : Nat) {k : Nat}
    (h : k < ws.length) : Memory.word? (Memory.storeAll m i ws) (i + k) = ws[k]? := by
  induction ws generalizing m i k with
  | nil => simp at h
  | cons w ws ih =>
    simp only [Memory.storeAll, List.length_cons] at *
    cases k with
    | zero => simp [Memory.word?_storeAll_outside]
    | succ k =>
      rw [show i + (k + 1) = (i + 1) + k by omega, ih _ _ (by omega)]
      simp

/-- The cells after a store are the cells before it and the new one. -/
theorem Memory.mem_store {m : Memory} {i : Nat} {v : Word} {c : Nat × Word}
    (h : c ∈ Memory.store m i v) : c = (i, v) ∨ c ∈ m := by
  induction m with
  | nil => simp [Memory.store] at h; simp [h]
  | cons d m ih =>
    obtain ⟨k, w⟩ := d
    by_cases h1 : i < k
    · simpa [Memory.store, h1] using h
    · by_cases h2 : i = k
      · subst h2
        simp [Memory.store] at h
        rcases h with h | h
        · exact .inl h
        · exact .inr (List.mem_cons_of_mem _ h)
      · simp [Memory.store, h1, h2] at h
        rcases h with h | h
        · exact .inr (by simp [h])
        · rcases ih h with h | h
          · exact .inl h
          · exact .inr (List.mem_cons_of_mem _ h)

/-- A store keeps the canonical form. -/
theorem Memory.wf_store {cap : Nat} {m : Memory} (h : Memory.wf cap m) {i : Nat} (hi : i < cap)
    (v : Word) : Memory.wf cap (Memory.store m i v) := by
  refine ⟨?_, fun c hc => ?_⟩
  · have hp := h.1
    clear h
    induction m with
    | nil => simp [Memory.store]
    | cons d m ih =>
      obtain ⟨k, w⟩ := d
      rw [List.pairwise_cons] at hp
      by_cases h1 : i < k
      · simp only [Memory.store, h1, if_true]
        refine List.pairwise_cons.2 ⟨fun c hc => ?_, List.pairwise_cons.2 hp⟩
        rcases List.mem_cons.1 hc with rfl | hc
        · exact h1
        · exact Nat.lt_trans h1 (hp.1 c hc)
      · by_cases h2 : i = k
        · subst h2
          simp only [Memory.store, Nat.lt_irrefl, if_false, if_true]
          exact List.pairwise_cons.2 ⟨hp.1, hp.2⟩
        · simp only [Memory.store, h1, h2, if_false]
          refine List.pairwise_cons.2 ⟨fun c hc => ?_, ih hp.2⟩
          rcases Memory.mem_store hc with rfl | hc
          · show k < i
            omega
          · exact hp.1 c hc
  · rcases Memory.mem_store hc with rfl | hc
    · exact hi
    · exact h.2 c hc

/-- Storing consecutive words keeps the canonical form. -/
theorem Memory.wf_storeAll {cap : Nat} {m : Memory} (h : Memory.wf cap m) {i : Nat}
    {ws : List Word} (hi : i + ws.length ≤ cap) : Memory.wf cap (Memory.storeAll m i ws) := by
  induction ws generalizing m i with
  | nil => exact h
  | cons w ws ih =>
    simp only [List.length_cons] at hi
    exact ih (Memory.wf_store h (by omega) w) (by omega)

/-- A read of n words yields n words. -/
@[simp] theorem Memory.readAll_length (m : Memory) (i n d : Nat) :
    (Memory.readAll m i n d).1.length = n := by
  induction n generalizing i d with
  | zero => rfl
  | succ n ih => simp [Memory.readAll, ih]

theorem Memory.read_of_written {m : Memory} {i : Nat} {w : Word} (h : Memory.word? m i = some w)
    (d : Nat) : Memory.read m i d = (w, d) := by simp [Memory.read, h]

/-- A read of words that stand in the buffer yields them and draws nothing (R53, R65). -/
theorem Memory.readAll_of_holds {m : Memory} {i : Nat} {ws : List Word}
    (h : ∀ k, k < ws.length → Memory.word? m (i + k) = ws[k]?) (d : Nat) :
    Memory.readAll m i ws.length d = (ws, d) := by
  induction ws generalizing i with
  | nil => rfl
  | cons w ws ih =>
    have h0 : Memory.word? m i = some w := by simpa using h 0 (by simp)
    have ht : ∀ k, k < ws.length → Memory.word? m (i + 1 + k) = ws[k]? := fun k hk => by
      have := h (k + 1) (by simpa using hk)
      rw [show i + 1 + k = i + (k + 1) by omega, this]
      simp
    simp [Memory.readAll, Memory.read_of_written h0, ih ht]

/-- A read never lowers the count of draws. -/
theorem Memory.readAll_draws_le (m : Memory) (i n d : Nat) : d ≤ (Memory.readAll m i n d).2 := by
  induction n generalizing i d with
  | zero => exact Nat.le_refl d
  | succ n ih =>
    simp only [Memory.readAll]
    refine Nat.le_trans ?_ (ih _ _)
    unfold Memory.read
    split <;> simp

/-- Every buffer of the reset state is in canonical form. -/
theorem reset_memory_wf (b : BufId) : Memory.wf State.reset.cfg.capWords (State.reset.buf b).mem := by
  obtain ⟨k, sn⟩ := b
  cases k <;> cases sn <;> decide

end Sys2Proof.Machine
end

