-- ==== Sys2Proof/Laws/Ops.lean ====
section
/-! SUPPORT. What each shared operation can do, said once: the checks before a command, the common write and
read steps. -/

namespace Sys2Proof.Machine

open Sys2Proof

/-! ## The checks before a command (R237) -/

/-- In the fatal state a command changes nothing (R234). -/
theorem command_of_fatal {s : State} (h : s.fatal = true) (i : Instr)
    (body : DWord → State → State) : command i s body = .next s := by simp [command, h]

/-- Illegal operand values are a fatal fault (R80). -/
theorem command_of_illegal {s : State} (h : s.fatal = false) {i : Instr}
    (hi : i.wf s.cfg = false) (body : DWord → State → State) :
    command i s body = .next (s.raise .illegalCommand (i.cmd s.cfg)) := by
  simp [command, h, legal, hi]

/-- A legal command runs its body. -/
theorem command_of_legal {s : State} (h : s.fatal = false) {i : Instr} (hi : i.wf s.cfg = true)
    (body : DWord → State → State) :
    command i s body = .next (body (i.cmd s.cfg) s) := by
  simp [command, h, legal, hi]

/-- Everything a command can do. -/
theorem command_cases {i : Instr} {s t : State} {body : DWord → State → State}
    (h : command i s body = .next t) :
    (s.fatal = true ∧ t = s) ∨
    (s.fatal = false ∧ i.wf s.cfg = false ∧ t = s.raise .illegalCommand (i.cmd s.cfg)) ∨
    (s.fatal = false ∧ i.wf s.cfg = true ∧ t = body (i.cmd s.cfg) s) := by
  cases hf : s.fatal with
  | true => rw [command_of_fatal hf] at h; cases h; exact .inl ⟨rfl, rfl⟩
  | false =>
    cases hi : i.wf s.cfg with
    | false => rw [command_of_illegal hf hi] at h; cases h; exact .inr (.inl ⟨rfl, rfl, rfl⟩)
    | true => rw [command_of_legal hf hi] at h; cases h; exact .inr (.inr ⟨rfl, rfl, rfl⟩)

/-- Everything a word that is no command can do (R80 (a), R234). -/
theorem notACommand_cases {cmd : DWord} {s t : State} (h : notACommand cmd s = .next t) :
    (s.fatal = true ∧ t = s) ∨ (s.fatal = false ∧ t = s.raise .illegalCommand cmd) := by
  cases hf : s.fatal with
  | true => simp [notACommand, hf] at h; exact .inl ⟨rfl, h.symm⟩
  | false => simp [notACommand, hf] at h; exact .inr ⟨rfl, h.symm⟩

/-- Every instruction answers a next state: a fatal fault is one too, and a refused command leaves the state
as it is (R233, R234). -/
theorem exec_next (i : Instr) (s : State) : ∃ t, exec i s = .next t := by
  have hc : ∀ i body, ∃ t, command i s body = .next t := fun i body => by
    cases hf : s.fatal with
    | true => exact ⟨_, command_of_fatal hf i body⟩
    | false =>
      cases hi : i.wf s.cfg with
      | false => exact ⟨_, command_of_illegal hf hi body⟩
      | true => exact ⟨_, command_of_legal hf hi body⟩
  have hn : ∀ cmd, ∃ t, notACommand cmd s = .next t := fun cmd => by
    unfold notACommand; split <;> exact ⟨_, rfl⟩
  cases i with
  | readStatus => exact ⟨_, rfl⟩
  | readFaultcmd => exact ⟨_, rfl⟩
  | txDataWord x => exact hn _
  | txDelayWord n => exact hn _
  | txTriggerWord => exact hn _
  | txEofWord => exact hn _
  | txTimestampWord => exact hn _
  | rxLengthWord l => exact hn _
  | rxTimestampWord w => exact hn _
  | rxDataWord x => exact hn _
  | _ =>
    simp only [exec, execWriteU8, execWriteU16, execWriteU32, execWriteFloat,
      execWriteString, execWriteWord, execWriteCrc, execWriteDelay, execWriteTrigger,
      execMarkEndOfFrame, execWriteTimestamp, execMarkStartOfFrame, execReadU8, execReadU16,
      execReadU32, execReadFloat, execReadString, execReadCrc, execReadWord, execGetIndex,
      execSetIndex, execSetLength, execGetLength, execClear, execComputeCrc16, execTxSend,
      execParse, execVerifyResponses, execSetExpected, execGetExpected, execClearExpected,
      execReadDevwarn, execReadTimeout, execClearWarnings, execReadRxts]
    exact hc _ _

/-! ## The common write step (R120) -/

/-- A write that does not fit stores nothing and raises BUFFER_OVERFLOW. -/
theorem State.writeWords_of_overflow {s : State} {b : BufId} {ws : List Word}
    (h : s.cfg.capWords < (s.buf b).widx.toNat + ws.length) (cmd : DWord) :
    s.writeWords b ws cmd = s.raise .bufferOverflow cmd := by
  simp [State.writeWords, h]

/-- A write that fits stores its words at the write cursor and advances it. -/
theorem State.writeWords_of_room {s : State} {b : BufId} {ws : List Word}
    (h : (s.buf b).widx.toNat + ws.length ≤ s.cfg.capWords) (cmd : DWord) :
    s.writeWords b ws cmd = s.setBuf b
      { s.buf b with
        mem := Memory.storeAll (s.buf b).mem (s.buf b).widx.toNat ws
        widx := BitVec.ofNat 16 ((s.buf b).widx.toNat + ws.length) } := by
  simp [State.writeWords, Nat.not_lt.2 h]

/-- Everything a write can do. -/
theorem State.writeWords_cases (s : State) (b : BufId) (ws : List Word) (cmd : DWord) :
    (s.cfg.capWords < (s.buf b).widx.toNat + ws.length ∧
      s.writeWords b ws cmd = s.raise .bufferOverflow cmd) ∨
    ((s.buf b).widx.toNat + ws.length ≤ s.cfg.capWords ∧
      s.writeWords b ws cmd = s.setBuf b
        { s.buf b with
          mem := Memory.storeAll (s.buf b).mem (s.buf b).widx.toNat ws
          widx := BitVec.ofNat 16 ((s.buf b).widx.toNat + ws.length) }) := by
  rcases Nat.lt_or_ge s.cfg.capWords ((s.buf b).widx.toNat + ws.length) with h | h
  · exact .inl ⟨h, State.writeWords_of_overflow h cmd⟩
  · exact .inr ⟨h, State.writeWords_of_room h cmd⟩

/-! ## The common read step (R160) -/

/-- A read past LEN_b moves no cursor and raises READ_PAST_END. -/
theorem State.readWords_of_past {s : State} {b : BufId} {n : Nat}
    (h : (s.buf b).len.toNat < (s.buf b).ridx.toNat + n) (cmd : DWord)
    (k : List Word → State → State) : s.readWords b n cmd k = s.raise .readPastEnd cmd := by
  simp [State.readWords, h]

/-- A read within LEN_b hands on the words at the read cursor and the state with the cursor advanced. -/
theorem State.readWords_of_avail {s : State} {b : BufId} {n : Nat}
    (h : (s.buf b).ridx.toNat + n ≤ (s.buf b).len.toNat) (cmd : DWord)
    (k : List Word → State → State) :
    s.readWords b n cmd k =
      k (Memory.readAll (s.buf b).mem (s.buf b).ridx.toNat n s.draws).1
        ({ s with draws := (Memory.readAll (s.buf b).mem (s.buf b).ridx.toNat n s.draws).2
          }.setBuf b { s.buf b with ridx := BitVec.ofNat 16 ((s.buf b).ridx.toNat + n) }) := by
  simp [State.readWords, Nat.not_lt.2 h]

/-- Everything a read can do. -/
theorem State.readWords_cases (s : State) (b : BufId) (n : Nat) (cmd : DWord)
    (k : List Word → State → State) :
    ((s.buf b).len.toNat < (s.buf b).ridx.toNat + n ∧
      s.readWords b n cmd k = s.raise .readPastEnd cmd) ∨
    ((s.buf b).ridx.toNat + n ≤ (s.buf b).len.toNat ∧
      s.readWords b n cmd k =
        k (Memory.readAll (s.buf b).mem (s.buf b).ridx.toNat n s.draws).1
          ({ s with draws := (Memory.readAll (s.buf b).mem (s.buf b).ridx.toNat n s.draws).2
            }.setBuf b
              { s.buf b with ridx := BitVec.ofNat 16 ((s.buf b).ridx.toNat + n) })) := by
  rcases Nat.lt_or_ge (s.buf b).len.toNat ((s.buf b).ridx.toNat + n) with h | h
  · exact .inl ⟨h, State.readWords_of_past h cmd k⟩
  · exact .inr ⟨h, State.readWords_of_avail h cmd k⟩

/-- The bytes of words that stand in the buffer, drawing nothing. -/
theorem State.bytesAt_of_holds {s : State} {b : BufId} {i : Nat} {ws : List Word}
    (h : s.Holds b i ws) :
    s.bytesAt b i ws.length = (ws.map (s.cfg.byteOf b.kind), s.draws) := by
  simp [State.bytesAt, Memory.readAll_of_holds h]

end Sys2Proof.Machine
end

