-- ==== Sys2Proof/Laws/Parser.lean ====
section
/-! SUPPORT. What each transition of the parser does, and a whole record at once: the rows of R196 reached
within five transitions. -/

namespace Sys2Proof.Machine

open Sys2Proof

/-! ## PSTATE apart, the transitions do not see it -/

@[simp] theorem State.goto_goto (s : State) (q r : PState) : (s.goto q).goto r = s.goto r := rfl

@[simp] theorem State.goto_cfg (s : State) (q : PState) : (s.goto q).cfg = s.cfg := rfl

theorem State.goto_account (s : State) (q : PState) (c : DevClass) (i : Nat) :
    (s.goto q).account c i = (s.account c i).goto q := by
  unfold State.account
  simp only [show (s.goto q).exp = s.exp from rfl]
  split <;> rfl

theorem State.goto_warnSubnet (s : State) (q : PState) (sn : Subnet) (w : SubWarning) :
    (s.goto q).warnSubnet sn w = (s.warnSubnet sn w).goto q := rfl

theorem State.goto_warnDevice (s : State) (q : PState) (c : DevClass) (i : Nat) (w : DevWarning) :
    (s.goto q).warnDevice c i w = (s.warnDevice c i w).goto q := rfl

@[simp] theorem State.goto_raise (s : State) (q : PState) (c : Cause) (cmd : DWord) :
    (s.goto q).raise c cmd = s.raise c cmd := by
  unfold State.raise
  simp only [show (s.goto q).fatal = s.fatal from rfl]
  split <;> rfl

theorem noteTimestamp_goto (sn : Subnet) (ws : List Word) (s : State) (q : PState) :
    noteTimestamp sn ws (s.goto q) = (noteTimestamp sn ws s).goto q := by
  by_cases h : 1 < s.cfg.hdrWords
  · simp only [noteTimestamp, State.goto_cfg, h, if_true]
    rfl
  · simp only [noteTimestamp, State.goto_cfg, h, if_false]

/-! ## The header and the body (R182, R183) -/

/-- P_HEADER on a header whose words have been written. -/
theorem parseHeader_of_words {sn : Subnet} {v : ParseVars} {s : State} {ws : List Word}
    (h1 : 1 ≤ s.cfg.hdrWords) (hl : s.cfg.hdrWords ≤ ws.length) (hn : v.p + ws.length ≤ v.n)
    (hw : ∀ k, k < ws.length → Memory.word? (s.rx.get sn).mem (v.p + k) = ws[k]?) :
    parseHeader sn v s =
      ({ v with len := (ws.headD 0).toNat, p := v.p + s.cfg.hdrWords },
        (noteTimestamp sn ws s).goto .body) := by
  have hr : Memory.readAll (s.rx.get sn).mem v.p s.cfg.hdrWords s.draws =
      (ws.take s.cfg.hdrWords, s.draws) := by
    have := Memory.readAll_of_holds (m := (s.rx.get sn).mem) (i := v.p)
      (ws := ws.take s.cfg.hdrWords) (fun k hk => by
        rw [List.length_take] at hk
        rw [hw k (by omega), List.getElem?_take_of_lt (by omega)]) s.draws
    rwa [List.length_take, Nat.min_eq_left hl] at this
  have hh : (ws.take s.cfg.hdrWords).headD 0 = ws.headD 0 := by
    cases ws with
    | nil => simp
    | cons w ws => obtain ⟨k, hk⟩ := Nat.exists_eq_succ_of_ne_zero (Nat.ne_of_gt h1); simp [hk]
  unfold parseHeader noteTimestamp
  rw [if_neg (by omega), if_neg (by omega), hr]
  simp only [hh, List.drop_one]
  split <;> rfl

/-- P_BODY on a body whose words have been written. -/
theorem parseBody_of_words {sn : Subnet} {v : ParseVars} {s : State} {bs : List Word}
    (hl : v.len = bs.length) (hn : v.p + bs.length ≤ v.n)
    (hw : ∀ k, k < bs.length → Memory.word? (s.rx.get sn).mem (v.p + k) = bs[k]?) :
    parseBody sn v s =
      ({ v with body := bs.map (s.cfg.byteOf .rx), p := v.p + bs.length }, s.goto .check) := by
  unfold parseBody
  rw [if_neg (by omega), hl, Memory.readAll_of_holds hw]
  rfl

/-! ## A frame (R184 to R191) -/

/-- `fc[7] == 1` as a bound (R188). -/
theorem fcHighBit (x : Byte) : x.getLsbD 7 = decide (128 ≤ x.toNat) := by
  revert x; decide

/-- P_DECODE does not see PSTATE. -/
theorem parseDecode_goto (v : ParseVars) (s : State) (q : PState) :
    parseDecode v (s.goto q) =
      (v, (({ s with
        tel := s.tel.set v.cls v.idx
          (Decoder.apply v.dec (s.tel.get v.cls v.idx s.cfg.tel0) (payload v.body)) } : State
        ).account v.cls v.idx).goto .header) := by
  have h : parseDecode v (s.goto q) =
      (v, ((State.goto { s with
        tel := s.tel.set v.cls v.idx
          (Decoder.apply v.dec (s.tel.get v.cls v.idx s.cfg.tel0) (payload v.body)) } q
        ).account v.cls v.idx).goto .header) := rfl
  rw [h, State.goto_account]
  rfl

/-- From P_CHECK a frame's outcome is the first row of R196 that holds, reached within three transitions. -/
theorem parseRun_frame (sn : Subnet) (cmd : DWord) (v : ParseVars) (s : State)
    (hl : v.len = v.body.length) :
    ∃ v' m, m ≤ 3 ∧ v'.p = v.p ∧ v'.n = v.n ∧
      ∀ k, parseRun sn cmd (k + m) (v, s.goto .check) =
        parseRun sn cmd k (v',
          if frameOutcome s.cfg sn v.body = .classThree then s.raise .unknownDeviceClass cmd
          else (applyOutcome sn cmd v.body s (frameOutcome s.cfg sn v.body)).goto .header) := by
  have step1 : ∀ k x, x.2.pstate ≠ .idle →
      parseRun sn cmd (k + 1) x = parseRun sn cmd k (parseStep sn cmd x) := fun k x hx => by
    simp [parseRun, hx]
  have hc : parseStep sn cmd (v, s.goto .check) = parseCheck sn v (s.goto .check) := rfl
  unfold frameOutcome
  by_cases h4 : v.body.length < 4
  · refine ⟨v, 1, by omega, rfl, rfl, fun k => ?_⟩
    rw [step1 _ _ (by simp), hc]
    simp [parseCheck, hl, h4, skipRecord, applyOutcome, State.goto_warnSubnet]
  · by_cases hk : crcOk v.body = true
    · have hd : parseStep sn cmd (v, s.goto .check) = (v, s.goto .dispatch) := by
        rw [hc]; simp [parseCheck, hl, h4, hk]
      have hd' : parseStep sn cmd (v, s.goto .dispatch) = parseDispatch sn cmd v (s.goto .dispatch) := rfl
      have two : ∀ k, parseRun sn cmd (k + 2) (v, s.goto .check) =
          parseRun sn cmd k (parseDispatch sn cmd v (s.goto .dispatch)) := fun k => by
        rw [show k + 2 = (k + 1) + 1 from rfl, step1 _ _ (by simp), hd, step1 _ _ (by simp), hd']
      simp only [h4, hk, if_false, Bool.not_true, Bool.false_eq_true]
      unfold parseDispatch at two
      simp only [State.goto_cfg] at two
      cases ha : Config.device? s.cfg sn (v.body.getD 0 0) with
      | none =>
        refine ⟨v, 2, by omega, rfl, rfl, fun k => ?_⟩
        rw [two, ha]
        simp [skipRecord, applyOutcome, State.goto_warnSubnet]
      | some ci =>
        obtain ⟨c, i⟩ := ci
        cases c with
        | none =>
          refine ⟨v, 2, by omega, rfl, rfl, fun k => ?_⟩
          rw [two, ha]
          simp
        | some c =>
          simp only [ha] at two
          by_cases hx : 128 ≤ (v.body.getD 1 0).toNat
          · have hx' : (v.body.getD 1 0).getLsbD 7 = true := by
              rw [fcHighBit, decide_eq_true hx]
            simp only [hx, hx', if_true] at two ⊢
            have three : ∀ k, parseRun sn cmd (k + 3) (v, s.goto .check) =
                parseRun sn cmd k (parseException sn { v with cls := c, idx := i }
                  (s.goto .exception)) := fun k => by
              rw [show k + 3 = (k + 1) + 2 from rfl, two, step1 _ _ (by simp)]
              rfl
            unfold parseException at three
            by_cases h5 : v.body.length = 5
            · refine ⟨{ v with cls := c, idx := i }, 3, by omega, rfl, rfl, fun k => ?_⟩
              rw [three]
              simp [hl, h5, applyOutcome, State.goto_warnDevice, State.goto_account]
            · refine ⟨{ v with cls := c, idx := i }, 3, by omega, rfl, rfl, fun k => ?_⟩
              rw [three]
              simp [hl, h5, applyOutcome, skipRecord, State.goto_warnSubnet]
          · have hx' : (v.body.getD 1 0).getLsbD 7 = false := by
              rw [fcHighBit, decide_eq_false hx]
            simp only [hx, hx', if_false, Bool.false_eq_true] at two ⊢
            cases hs : Config.shape? s.cfg c (v.body.getD 1 0) with
            | none =>
              refine ⟨v, 2, by omega, rfl, rfl, fun k => ?_⟩
              rw [two, hs]
              simp [skipRecord, applyOutcome, State.goto_warnSubnet]
            | some ld =>
              obtain ⟨len, d⟩ := ld
              simp only [hs] at two
              by_cases hlen : v.body.length = len
              · refine ⟨{ v with cls := c, idx := i, dec := d }, 3, by omega, rfl, rfl,
                  fun k => ?_⟩
                rw [show k + 3 = (k + 1) + 2 from rfl, two, if_pos (hl.trans hlen),
                  step1 _ _ (by simp)]
                have he : parseStep sn cmd ({ v with cls := c, idx := i, dec := d },
                    (s.goto .dispatch).goto .decode) =
                  parseDecode { v with cls := c, idx := i, dec := d } (s.goto .decode) := rfl
                rw [he, parseDecode_goto]
                simp [hlen, applyOutcome]
              · refine ⟨v, 2, by omega, rfl, rfl, fun k => ?_⟩
                rw [two]
                simp [hl, hlen, skipRecord, applyOutcome, State.goto_warnSubnet]
    · refine ⟨v, 1, by omega, rfl, rfl, fun k => ?_⟩
      rw [step1 _ _ (by simp), hc]
      simp [parseCheck, hl, h4, hk, skipRecord, applyOutcome, State.goto_warnSubnet]

/-! ## A whole record -/

@[simp] theorem noteTimestamp_cfg (sn : Subnet) (ws : List Word) (s : State) :
    (noteTimestamp sn ws s).cfg = s.cfg := by unfold noteTimestamp; split <;> rfl
@[simp] theorem noteTimestamp_rx (sn : Subnet) (ws : List Word) (s : State) :
    (noteTimestamp sn ws s).rx = s.rx := by unfold noteTimestamp; split <;> rfl
@[simp] theorem noteTimestamp_fatal (sn : Subnet) (ws : List Word) (s : State) :
    (noteTimestamp sn ws s).fatal = s.fatal := by unfold noteTimestamp; split <;> rfl
@[simp] theorem noteTimestamp_exp (sn : Subnet) (ws : List Word) (s : State) :
    (noteTimestamp sn ws s).exp = s.exp := by unfold noteTimestamp; split <;> rfl
@[simp] theorem noteTimestamp_tel (sn : Subnet) (ws : List Word) (s : State) :
    (noteTimestamp sn ws s).tel = s.tel := by unfold noteTimestamp; split <;> rfl
@[simp] theorem noteTimestamp_devwarn (sn : Subnet) (ws : List Word) (s : State) :
    (noteTimestamp sn ws s).devwarn = s.devwarn := by unfold noteTimestamp; split <;> rfl

/-- P_HEADER on a whole record, from the header to the next header or to the fatal fault of a class-code-3
record, within five transitions: the timestamp, then the record's row of R196. -/
theorem parseRun_record (sn : Subnet) (cmd : DWord) (v : ParseVars) (s : State)
    {ws : List Word} {xs : List Byte} (h1 : 1 ≤ s.cfg.hdrWords) (hr : IsRecord s.cfg ws xs)
    (hn : v.p + ws.length ≤ v.n)
    (hw : ∀ k, k < ws.length → Memory.word? (s.rx.get sn).mem (v.p + k) = ws[k]?) :
    ∃ v' m, m ≤ 5 ∧ v'.p = v.p + ws.length ∧ v'.n = v.n ∧
      ∀ k, parseRun sn cmd (k + m) (v, s.goto .header) =
        parseRun sn cmd k (v',
          if frameOutcome s.cfg sn xs = .classThree then
            (noteTimestamp sn ws s).raise .unknownDeviceClass cmd
          else
            (applyOutcome sn cmd xs (noteTimestamp sn ws s) (frameOutcome s.cfg sn xs)).goto
              .header) := by
  have hlen := hr.length
  have hbl : (ws.drop s.cfg.hdrWords).length = xs.length := by rw [List.length_drop]; omega
  have e1 : parseStep sn cmd (v, s.goto .header) =
      ({ v with len := xs.length, p := v.p + s.cfg.hdrWords },
        (noteTimestamp sn ws s).goto .body) := by
    have := parseHeader_of_words (sn := sn) (v := v) (s := s.goto .header) (ws := ws) h1
      (by simp only [State.goto_cfg]; omega) hn hw
    rw [noteTimestamp_goto, hr.count] at this
    exact this
  have e2 : parseStep sn cmd ({ v with len := xs.length, p := v.p + s.cfg.hdrWords },
        (noteTimestamp sn ws s).goto .body) =
      ({ v with len := xs.length, p := v.p + ws.length, body := xs },
        (noteTimestamp sn ws s).goto .check) := by
    have := parseBody_of_words (sn := sn)
      (v := { v with len := xs.length, p := v.p + s.cfg.hdrWords })
      (s := (noteTimestamp sn ws s).goto .body) (bs := ws.drop s.cfg.hdrWords) hbl.symm
      (by simp only [hbl]; omega)
      (fun k hk => by
        rw [hbl] at hk
        have := hw (s.cfg.hdrWords + k) (by omega)
        rw [← Nat.add_assoc] at this
        rw [List.getElem?_drop, ← this]
        simp [State.goto])
    rw [State.goto_cfg, noteTimestamp_cfg, hr.body, hbl] at this
    rw [show v.p + ws.length = v.p + s.cfg.hdrWords + xs.length by omega]
    exact this
  obtain ⟨v', m, hm, hp, hn', hf⟩ := parseRun_frame sn cmd
    { v with len := xs.length, p := v.p + ws.length, body := xs } (noteTimestamp sn ws s) rfl
  refine ⟨v', m + 2, by omega, hp, hn', fun k => ?_⟩
  have step1 : ∀ k x, x.2.pstate ≠ .idle →
      parseRun sn cmd (k + 1) x = parseRun sn cmd k (parseStep sn cmd x) := fun k x hx => by
    simp [parseRun, hx]
  rw [show k + (m + 2) = (k + m) + 1 + 1 by omega, step1 _ _ (by simp), e1,
    step1 _ _ (by simp), e2, hf k, noteTimestamp_cfg]

/-! ## The end of a parse -/

/-- P_HEADER with no words left, then P_DONE (R182, R193). -/
theorem parseRun_done (sn : Subnet) (cmd : DWord) (v : ParseVars) (s : State) (h : v.n ≤ v.p)
    (k : Nat) :
    parseRun sn cmd (k + 2) (v, s.goto .header) = (v, (s.setBuf ⟨.rx, sn⟩
      { s.rx.get sn with ridx := BitVec.ofNat 16 v.p }).goto .idle) := by
  have e1 : parseStep sn cmd (v, s.goto .header) = (v, s.goto .done) := by
    show parseHeader sn v (s.goto .header) = _
    simp [parseHeader, h]
  have e2 : parseStep sn cmd (v, s.goto .done) = (v, (s.setBuf ⟨.rx, sn⟩
      { s.rx.get sn with ridx := BitVec.ofNat 16 v.p }).goto .idle) := rfl
  have e3 : ∀ k y, parseRun sn cmd k (v, State.goto y .idle) = (v, State.goto y .idle) :=
    fun k y => by cases k <;> simp [parseRun]
  rw [show k + 2 = (k + 1) + 1 from rfl, parseRun, if_neg (by simp), e1, parseRun,
    if_neg (by simp), e2, e3]

/-- A parse that has ended stays where it is. -/
theorem parseRun_idle (sn : Subnet) (cmd : DWord) (k : Nat) {x : ParseVars × State}
    (h : x.2.pstate = .idle) : parseRun sn cmd k x = x := by
  cases k <;> simp [parseRun, h]

end Sys2Proof.Machine
end

