-- ==== Sys2Proof/Tests/Slice0.lean ====
section
/-! SUPPORT. Tests: the well-formedness checks refuse, every word written out from 30_encoding.md decodes, one
step of every instruction against 95_test_vectors.md, and a witness for the hypotheses of every statement.
Every expected value is the spec's. -/

namespace Sys2Proof.Tests

set_option Elab.async false

open Sys2Proof Sys2Proof.Machine

/-! ## Well-formedness: each check refuses an ill-formed term -/

theorem test_wf_refcfg : Config.refcfg.wf = true := by decide +kernel

theorem test_wf_cap_zero :
    Config.wf { Config.refcfg with capWords := 0 } = false := by decide +kernel

theorem test_wf_cap_too_large :
    Config.wf { Config.refcfg with capWords := 65536 } = false := by decide +kernel

theorem test_wf_hdr_zero :
    Config.wf { Config.refcfg with hdrWords := 0 } = false := by decide +kernel

theorem test_wf_hdr_four :
    Config.wf { Config.refcfg with hdrWords := 4 } = false := by decide +kernel

theorem test_wf_tag_bit0_clear :
    Config.wf { Config.refcfg with txDataTag := 0x0000 } = false := by decide +kernel

theorem test_wf_tag_in_byte :
    Config.wf { Config.refcfg with txDataTag := 0x0003 } = false := by decide +kernel

theorem test_wf_delay_bits_17 :
    Config.wf { Config.refcfg with delayArgBits := 17 } = false := by decide +kernel

theorem test_wf_delay_base_overlaps :
    Config.wf { Config.refcfg with cwDelayBase := 0xC001 } = false := by decide +kernel

theorem test_wf_trigger_is_data :
    Config.wf { Config.refcfg with cwTrigger := 0x0001 } = false := by decide +kernel

theorem test_wf_eof_is_data :
    Config.wf { Config.refcfg with cwEof := 0x01FF } = false := by decide +kernel

theorem test_wf_timestamp_is_data :
    Config.wf { Config.refcfg with cwTimestamp := 0x0003 } = false := by decide +kernel

theorem test_wf_delay_is_data :
    Config.wf { Config.refcfg with cwDelayBase := 0x0000, delayArgBits := 1 } = false := by decide +kernel

theorem test_wf_trigger_is_eof :
    Config.wf { Config.refcfg with cwTrigger := 0xF000 } = false := by decide +kernel

theorem test_wf_trigger_is_timestamp :
    Config.wf { Config.refcfg with cwTrigger := 0xD000 } = false := by decide +kernel

theorem test_wf_eof_is_timestamp :
    Config.wf { Config.refcfg with cwEof := 0xD000 } = false := by decide +kernel

theorem test_wf_trigger_in_delays :
    Config.wf { Config.refcfg with cwTrigger := 0xC000 } = false := by decide +kernel

theorem test_wf_eof_in_delays :
    Config.wf { Config.refcfg with cwEof := 0xCFFF } = false := by decide +kernel

theorem test_wf_timestamp_in_delays :
    Config.wf { Config.refcfg with cwTimestamp := 0xC064 } = false := by decide +kernel

theorem test_wf_rx_lsb_nine :
    Config.wf { Config.refcfg with rxByteLsb := 9 } = false := by decide +kernel

theorem test_wf_index_beyond_class :
    Config.wf { Config.refcfg with dmap := [⟨.s1, 0x0A, some .fa, 4⟩] } = false := by decide +kernel

theorem test_wf_address_twice :
    Config.wf { Config.refcfg with dmap := [⟨.s1, 0x0A, some .fa, 0⟩, ⟨.s1, 0x0A, none, 0⟩] } = false := by decide +kernel

theorem test_wf_device_twice :
    Config.wf { Config.refcfg with dmap := [⟨.s1, 0x0A, some .fa, 0⟩, ⟨.s1, 0x0B, some .fa, 0⟩] } = false := by decide +kernel

theorem test_wf_shape_of_three :
    Config.wf { Config.refcfg with shapes := [⟨.fa, 0x12, 3, .moves []⟩] } = false := by decide +kernel

theorem test_wf_device_on_two_subnets :
    Config.wf { Config.refcfg with
      dmap := [⟨.s1, 0x0A, some .fa, 0⟩, ⟨.s2, 0x0A, some .fa, 0⟩] } = true := by decide +kernel

theorem test_wf_delay_4096 :
    (Instr.writeDelay ⟨.tx, .s1⟩ 4096).wf Config.refcfg = false := by decide +kernel

theorem test_wf_delay_word_4096 :
    (Instr.txDelayWord 4096).wf Config.refcfg = false := by decide +kernel

theorem test_wf_string_count :
    (Instr.writeString ⟨.tx, .s1⟩ 2 [0x41]).wf Config.refcfg = false := by decide +kernel

theorem test_wf_set_expected_index :
    (Instr.setExpected .fa 4 1).wf Config.refcfg = false := by decide +kernel

theorem test_wf_get_expected_index :
    (Instr.getExpected .hp 6).wf Config.refcfg = false := by decide +kernel

theorem test_wf_devwarn_index :
    (Instr.readDevwarn .hm 6).wf Config.refcfg = false := by decide +kernel

theorem test_wf_timeout_index :
    (Instr.readTimeout .fa 4).wf Config.refcfg = false := by decide +kernel

theorem test_wf_last_index : (Instr.readDevwarn .hm 5).wf Config.refcfg = true := by decide +kernel

/-! ## Decoding: every command's word written out as `op buf sub imm` from R79, and the FIFO words -/

theorem test_decode_write_u8 :
    decode ⟨0x01400000, 0xFFFFFF0A, []⟩ = some (.writeU8 ⟨.tx, .s5⟩ 0x0A) := by decide +kernel

theorem test_decode_write_u16 :
    decode ⟨0x02800000, 0xABCD1234, []⟩ = some (.writeU16 ⟨.rx, .s1⟩ 0x1234) := by decide +kernel

theorem test_decode_write_u32 :
    decode ⟨0x03000000, 0x01020304, []⟩ = some (.writeU32 ⟨.tx, .s1⟩ 0x01020304) := by decide +kernel

theorem test_decode_write_float :
    decode ⟨0x04100000, 0x3F800000, []⟩ = some (.writeFloat ⟨.tx, .s2⟩ 0x3F800000) := by decide +kernel

theorem test_decode_write_string :
    decode ⟨0x05000002, 0, [0x41, 0x42]⟩ = some (.writeString ⟨.tx, .s1⟩ 2 [0x41, 0x42]) := by decide +kernel

theorem test_decode_write_word :
    decode ⟨0x06C00000, 0x12340007, []⟩ = some (.writeWord ⟨.rx, .s5⟩ 0x0007) := by decide +kernel

theorem test_decode_write_crc :
    decode ⟨0x07000000, 0, []⟩ = some (.writeCrc ⟨.tx, .s1⟩) := by decide +kernel

theorem test_decode_write_delay :
    decode ⟨0x08200064, 0, []⟩ = some (.writeDelay ⟨.tx, .s3⟩ 100) := by decide +kernel

theorem test_decode_write_trigger :
    decode ⟨0x09000000, 0, []⟩ = some (.writeTrigger ⟨.tx, .s1⟩) := by decide +kernel

theorem test_decode_mark_end_of_frame :
    decode ⟨0x0A000000, 0, []⟩ = some (.markEndOfFrame ⟨.tx, .s1⟩) := by decide +kernel

theorem test_decode_write_timestamp :
    decode ⟨0x0B000000, 0, []⟩ = some (.writeTimestamp ⟨.tx, .s1⟩) := by decide +kernel

theorem test_decode_mark_start_of_frame :
    decode ⟨0x0C300000, 0, []⟩ = some (.markStartOfFrame ⟨.tx, .s4⟩) := by decide +kernel

theorem test_decode_read_u8 :
    decode ⟨0x10800000, 0, []⟩ = some (.readU8 ⟨.rx, .s1⟩) := by decide +kernel

theorem test_decode_read_u16 :
    decode ⟨0x11900000, 0, []⟩ = some (.readU16 ⟨.rx, .s2⟩) := by decide +kernel

theorem test_decode_read_u32 :
    decode ⟨0x12A00000, 0, []⟩ = some (.readU32 ⟨.rx, .s3⟩) := by decide +kernel

theorem test_decode_read_float :
    decode ⟨0x13B00000, 0, []⟩ = some (.readFloat ⟨.rx, .s4⟩) := by decide +kernel

theorem test_decode_read_string :
    decode ⟨0x1480FFFF, 0, []⟩ = some (.readString ⟨.rx, .s1⟩ 0xFFFF) := by decide +kernel

theorem test_decode_read_crc :
    decode ⟨0x15800000, 0, []⟩ = some (.readCrc ⟨.rx, .s1⟩) := by decide +kernel

theorem test_decode_read_word :
    decode ⟨0x16000000, 0, []⟩ = some (.readWord ⟨.tx, .s1⟩) := by decide +kernel

theorem test_decode_get_index :
    decode ⟨0x20010000, 0, []⟩ = some (.getIndex ⟨.tx, .s1⟩ .read) := by decide +kernel

theorem test_decode_set_index :
    decode ⟨0x21000041, 0, []⟩ = some (.setIndex ⟨.tx, .s1⟩ .write 65) := by decide +kernel

theorem test_decode_set_length :
    decode ⟨0x22800009, 0, []⟩ = some (.setLength ⟨.rx, .s1⟩ 9) := by decide +kernel

theorem test_decode_get_length :
    decode ⟨0x23C00000, 0, []⟩ = some (.getLength ⟨.rx, .s5⟩) := by decide +kernel

theorem test_decode_clear :
    decode ⟨0x24800000, 0, []⟩ = some (.clear ⟨.rx, .s1⟩) := by decide +kernel

theorem test_decode_compute_crc16 :
    decode ⟨0x2500003C, 0xFFFF0005, []⟩ = some (.computeCrc16 ⟨.tx, .s1⟩ 60 5) := by decide +kernel

theorem test_decode_tx_send : decode ⟨0x30400000, 0, []⟩ = some (.txSend .s5) := by decide +kernel

theorem test_decode_parse : decode ⟨0x40C00000, 0, []⟩ = some (.parse 0xC) := by decide +kernel

theorem test_decode_verify_responses :
    decode ⟨0x41000000, 7, []⟩ = some (.verifyResponses) := by decide +kernel

theorem test_decode_set_expected :
    decode ⟨0x420B0005, 0, []⟩ = some (.setExpected .hm 5 3) := by decide +kernel

theorem test_decode_get_expected :
    decode ⟨0x43040005, 0, []⟩ = some (.getExpected .hp 5) := by decide +kernel

theorem test_decode_clear_expected :
    decode ⟨0x44000000, 0, []⟩ = some (.clearExpected) := by decide +kernel

theorem test_decode_read_status :
    decode ⟨0x45000000, 0, []⟩ = some (.readStatus) := by decide +kernel

theorem test_decode_read_devwarn :
    decode ⟨0x46080001, 0, []⟩ = some (.readDevwarn .hm 1) := by decide +kernel

theorem test_decode_read_timeout :
    decode ⟨0x47000001, 0, []⟩ = some (.readTimeout .fa 1) := by decide +kernel

theorem test_decode_clear_warnings :
    decode ⟨0x48000000, 0, []⟩ = some (.clearWarnings) := by decide +kernel

theorem test_decode_read_rxts :
    decode ⟨0x49A00000, 0, []⟩ = some (.readRxts .s3) := by decide +kernel

theorem test_decode_read_faultcmd :
    decode ⟨0x4A000000, 0, []⟩ = some (.readFaultcmd) := by decide +kernel

theorem test_refuse_op_zero : decode ⟨0x00000000, 0, []⟩ = none := by decide +kernel

theorem test_refuse_op_0d : decode ⟨0x0D000000, 0, []⟩ = none := by decide +kernel

theorem test_refuse_op_4b : decode ⟨0x4B000000, 0, []⟩ = none := by decide +kernel

theorem test_refuse_reserved_buf : decode ⟨0x01500000, 0, []⟩ = none := by decide +kernel

theorem test_refuse_sub_of_write : decode ⟨0x01010000, 0, []⟩ = none := by decide +kernel

theorem test_refuse_imm_of_write : decode ⟨0x01000001, 0, []⟩ = none := by decide +kernel

theorem test_refuse_selector_two : decode ⟨0x20020000, 0, []⟩ = none := by decide +kernel

theorem test_refuse_send_of_rx : decode ⟨0x30800000, 0, []⟩ = none := by decide +kernel

theorem test_refuse_rxts_of_tx : decode ⟨0x49000000, 0, []⟩ = none := by decide +kernel

theorem test_refuse_class_three : decode ⟨0x420D0000, 0, []⟩ = none := by decide +kernel

theorem test_refuse_sub_of_get : decode ⟨0x43010000, 0, []⟩ = none := by decide +kernel

theorem test_refuse_buf_of_verify : decode ⟨0x41100000, 0, []⟩ = none := by decide +kernel

theorem test_refuse_bytes_of_write : decode ⟨0x01000000, 0, [1]⟩ = none := by decide +kernel

theorem test_decode_tx_data_word :
    decodeTx Config.refcfg 0x0015 = some (.txDataWord 0x0A) := by decide +kernel

theorem test_decode_tx_delay_word :
    decodeTx Config.refcfg 0xC064 = some (.txDelayWord 100) := by decide +kernel

theorem test_decode_tx_trigger_word :
    decodeTx Config.refcfg 0xE000 = some .txTriggerWord := by decide +kernel

theorem test_decode_tx_eof_word :
    decodeTx Config.refcfg 0xF000 = some .txEofWord := by decide +kernel

theorem test_decode_tx_timestamp_word :
    decodeTx Config.refcfg 0xD000 = some .txTimestampWord := by decide +kernel

theorem test_unclassified_word : decodeTx Config.refcfg 0xBEEF = none := by decide +kernel

theorem test_decode_rx_length_word :
    decodeRx Config.refcfg 0 0x0007 = .rxLengthWord 7 := by decide +kernel

theorem test_decode_rx_timestamp_word :
    decodeRx Config.refcfg 1 0x1234 = .rxTimestampWord 0x1234 := by decide +kernel

theorem test_decode_rx_data_word :
    decodeRx Config.refcfg 2 0x0015 = .rxDataWord 0x0A := by decide +kernel

theorem test_table_command :
    decodeTableWord 64 0x0000000A01000000 = some (.writeU8 ⟨.tx, .s1⟩ 0x0A) := by decide +kernel

theorem test_table_string :
    decodeTableWord 32 0x05000002 = some (.writeString ⟨.tx, .s1⟩ 2 [0, 0]) := by decide +kernel

theorem test_table_fifo_word : decodeTableWord 16 0xE000 = some .txTriggerWord := by decide +kernel

/-! ## One step of every instruction (95_test_vectors.md section 3) -/

/-- Words from index 0 on. -/
def cells (ws : List Word) : Memory := ws.zipIdx.map fun p => (p.2, p.1)

/-- A buffer holding these words, its write cursor and its length after them. -/
def filled (ws : List Word) : Buffer :=
  ⟨cells ws, BitVec.ofNat 16 ws.length, 0, BitVec.ofNat 16 ws.length, 0⟩

/-- Reset, then TX1 holding these words. -/
def tx1 (ws : List Word) : State := { State.reset with tx := State.reset.tx.set .s1 (filled ws) }

/-- Reset, then RX1 holding these words (`LOAD_RX RX1`). -/
def rx1 (ws : List Word) : State := { State.reset with rx := State.reset.rx.set .s1 (filled ws) }

/-- EXP[FA][0] set to 1 before. -/
def owed (s : State) : State := { s with exp := s.exp.set .fa 0 1 }

/-- TX1 with its write cursor there and nothing written. -/
def tx1At (k : Word) : State :=
  { State.reset with tx := State.reset.tx.set .s1 { Buffer.reset with widx := k } }

/-- The next state of an outcome, if it is one. -/
def nextOf : Host.Outcome State Fault Refusal → Option State
  | .next t => some t
  | .fault _ | .refused _ => none

/-- The state after one step on this transaction. -/
def after (cmd arg : DWord) (bytes : List Byte) (s : State) : Option State :=
  nextOf (step (s.offer ⟨cmd, arg, bytes⟩))

/-- What a test reads of TX1: its words and write cursor. -/
def tx1Of (t : State) : Memory × Word := (t.tx.s1.mem, t.tx.s1.widx)

/-- What a test reads of a fault: FATAL, FCAUSE, FCMD. -/
def faultOf (t : State) : Bool × BitVec 4 × DWord := (t.fatal, t.fcause, t.fcmd)

/-- The status frame `st` of FA 0 as a record with timestamp 0x1234. -/
def recSt : List Word :=
  [0x0007, 0x1234, 0x0015, 0x0025, 0x0003, 0x0001, 0x000B, 0x0051, 0x0175]

/-- The class-code-3 frame `cls3` as a record with timestamp 0x000A. -/
def recCls3 : List Word :=
  [0x0007, 0x000A, 0x00C7, 0x0025, 0x0003, 0x0001, 0x000B, 0x00E9, 0x0167]

/-- The reference frame's six bytes as data words (R106). -/
def refWords : List Word := [0x0003, 0x0007, 0x0001, 0x0001, 0x0001, 0x0015]

theorem test_write_u8 :
    (after 0x01000000 0x0A [] State.reset).map tx1Of =
      some ([(0, 0x0015)], 1) := by decide +kernel

theorem test_write_u8_full :
    (after 0x01000000 1 [] (tx1At 64)).map faultOf =
      some (true, 1, 0x01000000) := by decide +kernel

theorem test_write_u16 :
    (after 0x02000000 0x1234 [] State.reset).map tx1Of =
      some ([(0, 0x0025), (1, 0x0069)], 2) := by decide +kernel

theorem test_write_u16_one_left :
    (after 0x02000000 0xBEEF [] (tx1At 63)).map (fun t => (tx1Of t, faultOf t)) =
      some (([], 63), (true, 1, 0x02000000)) := by decide +kernel

theorem test_write_u32 :
    (after 0x03000000 0x01020304 [] State.reset).map tx1Of =
      some ([(0, 0x0003), (1, 0x0005), (2, 0x0007), (3, 0x0009)], 4) := by decide +kernel

theorem test_write_float_nan :
    (after 0x04000000 0x7FC00001 [] State.reset).map tx1Of =
      some ([(0, 0x00FF), (1, 0x0181), (2, 0x0001), (3, 0x0003)], 4) := by decide +kernel

theorem test_write_string :
    (after 0x05000002 0 [0x41, 0x42] State.reset).map tx1Of =
      some ([(0, 0x0083), (1, 0x0085)], 2) := by decide +kernel

theorem test_write_string_empty_full :
    (after 0x05000000 0 [] (tx1At 64)).map (fun t => (tx1Of t, faultOf t)) =
      some (([], 64), (false, 0, 0)) := by decide +kernel

theorem test_write_word :
    (after 0x06000000 0xBEEF [] State.reset).map tx1Of =
      some ([(0, 0xBEEF)], 1) := by decide +kernel

theorem test_write_crc :
    (after 0x07000000 0 [] (tx1 refWords)).map (fun t => (t.tx.s1.mem.drop 6, t.tx.s1.widx)) =
      some ([(6, 0x018B), (7, 0x019B)], 8) := by decide +kernel

theorem test_write_crc_empty :
    (after 0x07000000 0 [] State.reset).map tx1Of =
      some ([(0, 0x01FF), (1, 0x01FF)], 2) := by decide +kernel

theorem test_write_delay :
    (after 0x08000FFF 0 [] State.reset).map tx1Of =
      some ([(0, 0xCFFF)], 1) := by decide +kernel

theorem test_write_delay_illegal_first :
    (after 0x08001388 0 [] (tx1At 64)).map faultOf =
      some (true, 4, 0x08001388) := by decide +kernel

theorem test_write_trigger :
    (after 0x09000000 0 [] State.reset).map tx1Of =
      some ([(0, 0xE000)], 1) := by decide +kernel

theorem test_mark_end_of_frame :
    (after 0x0A000000 0 [] State.reset).map tx1Of =
      some ([(0, 0xF000)], 1) := by decide +kernel

theorem test_write_timestamp :
    (after 0x0B000000 0 [] State.reset).map tx1Of =
      some ([(0, 0xD000)], 1) := by decide +kernel

theorem test_mark_start_of_frame :
    (after 0x0C000000 0 [] (tx1At 64)).map (fun t => (t.tx.s1.fstart, tx1Of t)) =
      some (64, ([], 64)) := by decide +kernel

theorem test_read_u8 :
    (after 0x10800000 0 [] (rx1 [0x01FF, 0x00FE])).map (fun t => (t.result, t.rx.s1.ridx)) =
      some (0xFF, 1) := by decide +kernel

theorem test_read_u16 :
    (after 0x11800000 0 [] (rx1 [0x0025, 0x0069])).map (fun t => (t.result, t.rx.s1.ridx)) =
      some (0x1234, 2) := by decide +kernel

theorem test_read_u16_one_left :
    (after 0x11800000 0 [] (rx1 [0x0025])).map faultOf =
      some (true, 2, 0x11800000) := by decide +kernel

theorem test_read_u32 :
    (after 0x12800000 0 [] (rx1 [0x0003, 0x0005, 0x0007, 0x0009])).map (fun t => (t.result, t.rx.s1.ridx)) =
      some (0x01020304, 4) := by decide +kernel

theorem test_read_float :
    (after 0x13800000 0 [] (rx1 [0x007F, 0x0101, 0x0001, 0x0001])).map (fun t => (t.result, t.rx.s1.ridx)) =
      some (0x3F800000, 4) := by decide +kernel

theorem test_read_string :
    (after 0x14800002 0 [] (rx1 [0x0083, 0x0085])).map (fun t => (t.rbytes, t.rx.s1.ridx)) =
      some ([0x41, 0x42], 2) := by decide +kernel

theorem test_read_crc :
    (after 0x15800000 0 [] (rx1 [0x018B, 0x019B])).map (fun t => (t.result, t.rx.s1.ridx)) =
      some (0xCDC5, 2) := by decide +kernel

theorem test_read_word :
    (after 0x16800000 0 [] (rx1 [0xF000])).map (fun t => (t.result, t.rx.s1.ridx)) =
      some (0xF000, 1) := by decide +kernel

theorem test_read_word_past_end :
    (after 0x16800000 0 [] State.reset).map faultOf =
      some (true, 2, 0x16800000) := by decide +kernel

theorem test_get_index :
    (after 0x20000000 0 [] (tx1At 9)).map (·.result) =
      some 9 := by decide +kernel

theorem test_set_index :
    (after 0x21010040 0 [] State.reset).map (fun t => (t.tx.s1.ridx, t.tx.s1.widx)) =
      some (64, 0) := by decide +kernel

theorem test_set_index_beyond :
    (after 0x21000041 0 [] State.reset).map faultOf =
      some (true, 1, 0x21000041) := by decide +kernel

theorem test_set_length :
    (after 0x22000009 0 [] State.reset).map (fun t => (t.tx.s1.len, tx1Of t)) =
      some (9, ([], 0)) := by decide +kernel

theorem test_get_length :
    (after 0x23000000 0 [] (tx1 refWords)).map (·.result) =
      some 6 := by decide +kernel

theorem test_clear :
    (after 0x24000000 0 [] (tx1 [0xF000])).map (·.tx.s1) =
      some ⟨[(0, 0xF000)], 0, 0, 0, 0⟩ := by decide +kernel

theorem test_compute_crc16 :
    (after 0x25000000 6 [] (tx1 refWords)).map (·.result) =
      some 0xCDC5 := by decide +kernel

theorem test_compute_crc16_beyond :
    (after 0x2500003C 5 [] State.reset).map faultOf =
      some (true, 1, 0x2500003C) := by decide +kernel

theorem test_tx_send :
    (after 0x30000000 0 [] (tx1 [0x0015, 0xF000])).map (fun t => (t.txout.s1, t.txout.s2)) =
      some ([0x0015, 0xF000], []) := by decide +kernel

theorem test_parse_decodes :
    (after 0x40800000 0 [] (owed (rx1 recSt))).map (fun t =>
      (t.rx.s1.ridx, t.exp.fa, t.tel.fa.head?, t.rxts.s1, t.subwarn.s1)) =
      some (9, [0, 0, 0, 0], some [1, 0, 5, 0, 0, 0, 0, 0], 0x1234, 0) := by decide +kernel

theorem test_parse_class_three :
    (after 0x40800000 0 [] (owed (rx1 (recCls3 ++ recSt)))).map (fun t =>
      (t.rx.s1.ridx, t.exp.fa, t.rxts.s1, faultOf t)) =
      some (0, [1, 0, 0, 0], 0x000A, (true, 3, 0x40800000)) := by decide +kernel

theorem test_verify_responses :
    (after 0x41000000 0 [] (owed State.reset)).map (fun t => (t.result, t.timeout.fa)) =
      some (1, [true, false, false, false]) := by decide +kernel

theorem test_set_expected :
    (after 0x420B0005 0 [] State.reset).map (fun t => (t.exp.hm, t.exp.fa)) =
      some ([0, 0, 0, 0, 0, 3], [0, 0, 0, 0]) := by decide +kernel

theorem test_set_expected_beyond :
    (after 0x42010004 0 [] State.reset).map faultOf =
      some (true, 4, 0x42010004) := by decide +kernel

theorem test_get_expected :
    (after 0x43000000 0 [] (owed State.reset)).map (·.result) =
      some 1 := by decide +kernel

theorem test_clear_expected :
    (after 0x44000000 0 [] (owed State.reset)).map (·.exp.fa) =
      some [0, 0, 0, 0] := by decide +kernel

theorem test_read_status :
    (after 0x45000000 0 [] (State.reset.warnSubnet .s1 .invalidCrc)).map (·.result) =
      some 0x00001000 := by decide +kernel

theorem test_read_status_fatal :
    (after 0x45000000 0 [] (State.reset.raise .bufferOverflow 0x21000041)).map (·.result) =
      some 0x00000011 := by decide +kernel

theorem test_read_devwarn :
    (after 0x46000000 0 [] (State.reset.warnDevice .fa 0
      (.exception .illegalDataValue))).map (·.result) =
      some 4 := by decide +kernel

theorem test_read_timeout :
    (after 0x47000001 0 [] { State.reset with
      timeout := State.reset.timeout.set .fa 1 true }).map (·.result) =
      some 1 := by decide +kernel

theorem test_clear_warnings :
    (after 0x48000000 0 [] (State.reset.warnSubnet .s5 .unknownAddress)).map (·.subwarn.s5) =
      some 0 := by decide +kernel

theorem test_read_rxts :
    (after 0x49800000 0 [] { State.reset with
      rxts := State.reset.rxts.set .s1 0x1234 }).map (·.result) =
      some 0x1234 := by decide +kernel

theorem test_read_faultcmd :
    (after 0x4A000000 0 [] (State.reset.raise .bufferOverflow 0x21000041)).map (·.result) =
      some 0x21000041 := by decide +kernel

theorem test_tx_data_word_is_no_command :
    (nextOf (exec (.txDataWord 0x0A) State.reset)).map faultOf =
      some (true, 4, 0x0015) := by decide +kernel

theorem test_tx_delay_word_is_no_command :
    (nextOf (exec (.txDelayWord 100) State.reset)).map faultOf =
      some (true, 4, 0xC064) := by decide +kernel

theorem test_tx_trigger_word_is_no_command :
    (nextOf (exec .txTriggerWord State.reset)).map faultOf = some (true, 4, 0xE000) := by decide +kernel

theorem test_tx_eof_word_is_no_command :
    (nextOf (exec .txEofWord State.reset)).map faultOf = some (true, 4, 0xF000) := by decide +kernel

theorem test_tx_timestamp_word_is_no_command :
    (nextOf (exec .txTimestampWord State.reset)).map faultOf = some (true, 4, 0xD000) := by decide +kernel

theorem test_rx_length_word_is_no_command :
    (nextOf (exec (.rxLengthWord 7) State.reset)).map faultOf =
      some (true, 4, 0x0007) := by decide +kernel

theorem test_rx_timestamp_word_is_no_command :
    (nextOf (exec (.rxTimestampWord 0x1234) State.reset)).map faultOf =
      some (true, 4, 0x1234) := by decide +kernel

/-- The bits of 0x0014 outside the byte field are the model's choice (log 15), not the spec's. -/
theorem test_rx_data_word_is_no_command :
    (nextOf (exec (.rxDataWord 0x0A) State.reset)).map faultOf =
      some (true, 4, 0x0014) := by decide +kernel

theorem test_op_zero_is_illegal :
    (after 0x0000E000 0 [] State.reset).map faultOf =
      some (true, 4, 0x0000E000) := by decide +kernel

theorem test_reset_has_no_input :
    (nextOf (step State.reset)).map (·.fatal) = some false := by decide +kernel

/-! ## Witnesses: states and operands that meet the hypotheses of the statements

Each `wit_<Name>` meets the hypotheses of `Obligations.<Name>` together; where a statement has clauses over a
range there is one conjunct for each, at a boundary of the range. -/

/-- A state with this input offered. -/
def asked (s : State) (cmd arg : DWord) (bytes : List Byte) : State := s.offer ⟨cmd, arg, bytes⟩

/-- After a fatal fault of SET_INDEX TX1, W, 65. -/
def dead : State := State.reset.raise .bufferOverflow 0x21000041

/-- RX1 holds the status record of FA 0, which owes one response. -/
def loaded : State := owed (rx1 recSt)

/-- The status frame `st`, and the exception frame `exc3`. -/
def frameSt : List Byte := [0x0A, 0x12, 0x01, 0x00, 0x05, 0x28, 0xBA]
def frameExc : List Byte := [0x0A, 0x92, 0x03, 0x7C, 0xA3]

/-- The frame of the class-code-3 record. -/
def frameCls3 : List Byte := [0x63, 0x12, 0x01, 0x00, 0x05, 0x74, 0xB3]

/-- The exception frame `exc3` as a record with timestamp 6. -/
def recExc : List Word := [0x0005, 0x0006, 0x0015, 0x0125, 0x0007, 0x00F9, 0x0147]

theorem wit_inv_loaded : loaded.Inv where
  cfg := by decide +kernel
  buf := by
    rintro ⟨k, sn⟩
    cases k <;> cases sn <;>
      exact ⟨by decide +kernel, by decide +kernel, by decide +kernel, by decide +kernel,
        by decide +kernel⟩
  exp := by intro c; cases c <;> decide +kernel
  tel := by intro c; cases c <;> decide +kernel
  devwarn := by intro c; cases c <;> decide +kernel
  timeout := by intro c; cases c <;> decide +kernel
  rxts := by intro sn; cases sn <;> decide +kernel
  pstate := rfl
  noFault := fun _ => ⟨rfl, rfl⟩
  fault := by intro h; cases h

/-- The same with one EXP entry zero: a response nobody owes. -/
theorem wit_inv_unowed : (rx1 recSt).Inv where
  cfg := by decide +kernel
  buf := by
    rintro ⟨k, sn⟩
    cases k <;> cases sn <;>
      exact ⟨by decide +kernel, by decide +kernel, by decide +kernel, by decide +kernel,
        by decide +kernel⟩
  exp := by intro c; cases c <;> decide +kernel
  tel := by intro c; cases c <;> decide +kernel
  devwarn := by intro c; cases c <;> decide +kernel
  timeout := by intro c; cases c <;> decide +kernel
  rxts := by intro sn; cases sn <;> decide +kernel
  pstate := rfl
  noFault := fun _ => ⟨rfl, rfl⟩
  fault := by intro h; cases h

theorem wit_inv_exception : (owed (rx1 recExc)).Inv where
  cfg := by decide +kernel
  buf := by
    rintro ⟨k, sn⟩
    cases k <;> cases sn <;>
      exact ⟨by decide +kernel, by decide +kernel, by decide +kernel, by decide +kernel,
        by decide +kernel⟩
  exp := by intro c; cases c <;> decide +kernel
  tel := by intro c; cases c <;> decide +kernel
  devwarn := by intro c; cases c <;> decide +kernel
  timeout := by intro c; cases c <;> decide +kernel
  rxts := by intro sn; cases sn <;> decide +kernel
  pstate := rfl
  noFault := fun _ => ⟨rfl, rfl⟩
  fault := by intro h; cases h

/-- RX1 of `loaded` holds exactly the one record. -/
theorem wit_holds_loaded : RxHolds loaded .s1 [(recSt, frameSt)] [] where
  isRecord := by
    intro r hr
    obtain rfl := List.mem_singleton.1 hr
    exact ⟨by decide +kernel, by decide +kernel, by decide +kernel⟩
  isTail := .inl (by decide +kernel)
  words := by
    show ∀ k, k < 9 → loaded.word? ⟨.rx, .s1⟩ (0 + k) = recSt[k]?
    decide +kernel
  length := by decide +kernel

theorem wit_holds_exception : RxHolds (owed (rx1 recExc)) .s1 [(recExc, frameExc)] [] where
  isRecord := by
    intro r hr
    obtain rfl := List.mem_singleton.1 hr
    exact ⟨by decide +kernel, by decide +kernel, by decide +kernel⟩
  isTail := .inl (by decide +kernel)
  words := by
    show ∀ k, k < 7 → (owed (rx1 recExc)).word? ⟨.rx, .s1⟩ (0 + k) = recExc[k]?
    decide +kernel
  length := by decide +kernel

/-- A record and then a truncated header. -/
theorem wit_holds_tail : RxHolds (owed (rx1 (recSt ++ [7]))) .s1 [(recSt, frameSt)] [7] where
  isRecord := by
    intro r hr
    obtain rfl := List.mem_singleton.1 hr
    exact ⟨by decide +kernel, by decide +kernel, by decide +kernel⟩
  isTail := .inl (by decide +kernel)
  words := by
    show ∀ k, k < 10 → (owed (rx1 (recSt ++ [7]))).word? ⟨.rx, .s1⟩ (0 + k) = (recSt ++ [7])[k]?
    decide +kernel
  length := by decide +kernel

theorem wit_no_class_three : NoClassThree Config.refcfg .s1 [(recSt, frameSt)] := by
  intro r hr
  obtain rfl := List.mem_singleton.1 hr
  decide +kernel

/-! ### Encoding -/

theorem wit_DecodeOfEncodeIsIdentity : (Instr.setExpected .hm 5 3).isCommand = true := rfl

theorem wit_EncodeOfDecodeRestoresTheCommandWord :
    decode ⟨0x05800002, 0xFFFFFFFF, [1, 2]⟩ = some (.writeString ⟨.rx, .s1⟩ 2 [1, 2]) := by
  decide +kernel

theorem wit_UnusedArgBitsAreIgnored :
    (Transaction.op ⟨0x01000000, 0xFFFFFF00, []⟩ = 0x01 ∧
      (0x00000000 : DWord).extractLsb' 0 8 = (0xFFFFFF00 : DWord).extractLsb' 0 8) ∧
    (Transaction.op ⟨0x25000000, 0xFFFF0005, []⟩ = 0x25 ∧
      (0x00000005 : DWord).extractLsb' 0 16 = (0xFFFF0005 : DWord).extractLsb' 0 16) ∧
    (Transaction.op ⟨0x02000000, 0, []⟩ = 0x02 ∧ Transaction.op ⟨0x06000000, 0, []⟩ = 0x06) ∧
    (∀ k ∈ [(0x01 : BitVec 8), 0x02, 0x03, 0x04, 0x06, 0x25],
      Transaction.op ⟨0x41000000, 0, []⟩ ≠ k) := by decide +kernel

/-- One transaction for each case (a) to (i) of R80, then the legal neighbours of (b), (g) and (h). -/
theorem wit_IllegalCommandTakesFatalFault :
    (∀ t ∈ ([⟨0x0D000000, 0, []⟩, ⟨0x01500000, 0, []⟩, ⟨0x41100000, 0, []⟩, ⟨0x30800000, 0, []⟩,
        ⟨0x49000000, 0, []⟩, ⟨0x20020000, 0, []⟩, ⟨0x01000001, 0, []⟩, ⟨0x42010004, 0, []⟩,
        ⟨0x420D0000, 0, []⟩, ⟨0x08001000, 0, []⟩, ⟨0x05000002, 0, [1]⟩, ⟨0x01000000, 0, [1]⟩] :
        List Transaction),
      (State.reset.offer t).cfg.wf = true ∧ (State.reset.offer t).fatal = false ∧
      (State.reset.offer t).inputs = [.command t] ∧
      illegalCommand (State.reset.offer t).cfg t = true) := by decide +kernel

theorem wit_LegalCommandDecodes :
    ∀ t ∈ ([⟨0x01400000, 0, []⟩, ⟨0x01C00000, 0, []⟩, ⟨0x42010003, 0, []⟩, ⟨0x46080005, 0, []⟩,
        ⟨0x08000FFF, 0, []⟩, ⟨0x40500000, 0, []⟩] : List Transaction),
      illegalCommand Config.refcfg t = false := by decide +kernel

theorem wit_TransmitWordsAreClassified :
    Config.refcfg.wf = true ∧ (4095 : Word).toNat < 2 ^ Config.refcfg.delayArgBits ∧
    decodeTx Config.refcfg 0xCFFF = some (.txDelayWord 4095) := by decide +kernel

theorem wit_DelayRangeCheckIsExact :
    Config.refcfg.txDataTag &&& 0x01FF = 1 ∧ Config.refcfg.delayArgBits ≤ 16 ∧
    Config.refcfg.cwDelayBase &&& lowMask Config.refcfg.delayArgBits = 0 := by decide +kernel

theorem wit_WordsCarryBytesByPosition :
    Config.refcfg.wf = true ∧
    ∀ k, k < 8 → (0xFE14 : Word).getLsbD (Config.refcfg.rxByteLsb + k) =
      (0x0015 : Word).getLsbD (Config.refcfg.rxByteLsb + k) := by decide +kernel

/-! ### The step, reset and the invariant -/

theorem wit_StepRunsTheDecodedCommand :
    (asked State.reset 0x41000000 0 []).cfg.wf = true ∧
    (asked State.reset 0x41000000 0 []).inputs = [.command ⟨0x41000000, 0, []⟩] ∧
    decode ⟨0x41000000, 0, []⟩ = some .verifyResponses := by decide +kernel

theorem wit_ResetInputRestoresResetValues :
    ({ dead with inputs := [.reset] } : State).cfg.wf = true ∧
    ({ dead with inputs := [.reset] } : State).inputs = .reset :: [] := by decide +kernel

theorem wit_ResetMeetsTheInvariant : Config.refcfg.wf = true := by decide +kernel

theorem wit_EveryStepKeepsTheInvariant :
    loaded.Inv ∧ ∃ t, step loaded = .next t := ⟨wit_inv_loaded, _, rfl⟩

theorem wit_StepStopsOnlyInTwoCases :
    (dead.cfg.wf = true ∧ dead.inputs = [] ∧ dead.fatal = true) ∧
    (State.resetWith { Config.refcfg with capWords := 0 }).cfg.wf = false ∧
    (State.reset.cfg.wf = true ∧ State.reset.inputs = [] ∧ State.reset.fatal = false) := by
  decide +kernel

/-! ### Fatal faults -/

/-- READ_STATUS, READ_FAULTCMD, an illegal READ_STATUS, another command, and no command, in the fatal
state. -/
theorem wit_FatalStateRefusesCommands :
    dead.cfg.wf = true ∧ dead.fatal = true ∧
    (∀ t ∈ ([⟨0x45000000, 0, []⟩, ⟨0x4A000000, 0, []⟩, ⟨0x45000001, 0, []⟩, ⟨0x41000000, 0, []⟩,
      ⟨0x00000000, 0, []⟩] : List Transaction), (dead.offer t).inputs = [.command t]) ∧
    illegalCommand dead.cfg ⟨0x45000000, 0, []⟩ = false ∧
    illegalCommand dead.cfg ⟨0x4A000000, 0, []⟩ = false ∧
    illegalCommand dead.cfg ⟨0x45000001, 0, []⟩ = true := by decide +kernel

theorem wit_OnlyResetLeavesTheFatalState :
    (dead.fatal = true ∧ ∃ t, step (asked dead 0x41000000 0 []) = .next t) ∧
    (∃ t, step { dead with inputs := [.reset] } = .next t) :=
  ⟨⟨rfl, _, rfl⟩, _, rfl⟩

theorem wit_FatalFaultIsPrecise :
    (tx1At 64).fatal = false ∧
    ∃ t, exec (.writeU8 ⟨.tx, .s1⟩ 1) (tx1At 64) = .next t ∧ t.fatal = true :=
  ⟨rfl, _, rfl, rfl⟩

/-- One fault of each cause. -/
theorem wit_CausesComeFromTheirCommands :
    (nextOf (exec (.writeU8 ⟨.tx, .s1⟩ 1) (tx1At 64))).map faultOf = some (true, 1, 0x01000000) ∧
    (nextOf (exec (.readU8 ⟨.rx, .s1⟩) State.reset)).map faultOf = some (true, 2, 0x10800000) ∧
    (nextOf (exec (.parse 8) (rx1 recCls3))).map faultOf = some (true, 3, 0x40800000) ∧
    (nextOf (exec (.writeDelay ⟨.tx, .s1⟩ 4096) State.reset)).map faultOf =
      some (true, 4, 0x08001000) := by decide +kernel

theorem wit_FatalParseKeepsTheReadCursor :
    (rx1 recCls3).fatal = false ∧
    (nextOf (exec (.parse 8) (rx1 recCls3))).map (·.fatal) = some true := by decide +kernel

/-! ### Writes -/

/-- A write that ends at CAP_WORDS, an empty string at a full buffer, and a control word. -/
theorem wit_WritesAppendAtTheCursor :
    ∀ p ∈ ([(.writeU32 ⟨.tx, .s1⟩ 0x01020304, 60, 4), (.writeString ⟨.tx, .s1⟩ 0 [], 64, 0),
        (.writeDelay ⟨.tx, .s1⟩ 4095, 63, 1), (.writeU16 ⟨.tx, .s1⟩ 0x1234, 62, 2)] :
        List (Instr × Word × Nat)),
      (tx1At p.2.1).cfg.wf = true ∧ (tx1At p.2.1).fatal = false ∧
      p.1.wf (tx1At p.2.1).cfg = true ∧
      (writtenWords (tx1At p.2.1).cfg p.1).map (fun q => (q.1, q.2.length)) =
        some (⟨.tx, .s1⟩, p.2.2) ∧
      ((tx1At p.2.1).buf ⟨.tx, .s1⟩).widx.toNat + p.2.2 = (tx1At p.2.1).cfg.capWords := by
  decide +kernel

theorem wit_OverflowingWriteStoresNothing :
    ∀ p ∈ ([(.writeU32 ⟨.tx, .s1⟩ 1, 61, 4), (.writeTrigger ⟨.tx, .s1⟩, 64, 1)] :
        List (Instr × Word × Nat)),
      (tx1At p.2.1).fatal = false ∧ p.1.wf (tx1At p.2.1).cfg = true ∧
      (writtenWords (tx1At p.2.1).cfg p.1).map (fun q => (q.1, q.2.length)) =
        some (⟨.tx, .s1⟩, p.2.2) ∧
      (tx1At p.2.1).cfg.capWords < ((tx1At p.2.1).buf ⟨.tx, .s1⟩).widx.toNat + p.2.2 := by
  decide +kernel

theorem wit_OverflowingWriteStoresNothing_crc :
    (tx1At 63).fatal = false ∧ (Instr.writeCrc ⟨.tx, .s1⟩).wf (tx1At 63).cfg = true ∧
    (tx1At 63).cfg.capWords < ((tx1At 63).buf ⟨.tx, .s1⟩).widx.toNat + 2 := by decide +kernel

/-- A written range, and an empty one that ends at the last two words. -/
theorem wit_WriteCrcAppendsTheFrameCrc :
    ((tx1 refWords).cfg.wf = true ∧ (tx1 refWords).fatal = false ∧
      ((tx1 refWords).buf ⟨.tx, .s1⟩).widx.toNat + 2 ≤ (tx1 refWords).cfg.capWords ∧
      (∀ k, k < refWords.length →
        (tx1 refWords).word? ⟨.tx, .s1⟩ (((tx1 refWords).buf ⟨.tx, .s1⟩).fstart.toNat + k) =
          refWords[k]?) ∧
      ((tx1 refWords).buf ⟨.tx, .s1⟩).widx.toNat - ((tx1 refWords).buf ⟨.tx, .s1⟩).fstart.toNat =
        refWords.length) ∧
    (State.reset.buf ⟨.tx, .s1⟩).widx.toNat ≤ (State.reset.buf ⟨.tx, .s1⟩).fstart.toNat ∧
    ((tx1At 62).buf ⟨.tx, .s1⟩).widx.toNat + 2 ≤ (tx1At 62).cfg.capWords := by decide +kernel

theorem wit_BuiltFrameIsCrcValid :
    (tx1At 55).cfg.wf = true ∧ (tx1At 55).fatal = false ∧
    ((tx1At 55).tx.get .s1).widx.toNat + [(1 : Byte), 3, 0, 0, 0, 10].length + 3 ≤
      (tx1At 55).cfg.capWords := by decide +kernel

theorem wit_PatchReplacesOnlyItsWords :
    (tx1 refWords).cfg.wf = true ∧ (tx1 refWords).fatal = false ∧
    (Instr.writeU16 ⟨.tx, .s1⟩ 0x0102).wf (tx1 refWords).cfg = true ∧
    writtenWords (tx1 refWords).cfg (.writeU16 ⟨.tx, .s1⟩ 0x0102) =
      some (⟨.tx, .s1⟩, [0x0003, 0x0005]) ∧
    (62 : Word).toNat + 2 ≤ (tx1 refWords).cfg.capWords := by decide +kernel

/-! ### Cursors, length and CRC -/

theorem wit_CursorReadsReturnThem : (tx1At 9).fatal = false := rfl

theorem wit_CursorWritesSetThem :
    State.reset.fatal = false ∧ (64 : Word).toNat ≤ State.reset.cfg.capWords := by decide +kernel

/-- The three clauses: illegal, one beyond CAP_WORDS, and CAP_WORDS itself. -/
theorem wit_SetLengthFollowsItsRule :
    State.reset.cfg.wf = true ∧ State.reset.fatal = false ∧
    (∀ t ∈ ([⟨0x22010009, 0, []⟩, ⟨0x22000041, 0, []⟩, ⟨0x22000040, 0, []⟩] : List Transaction),
      (State.reset.offer t).inputs = [.command t] ∧ t.op = 0x22) ∧
    illegalCommand State.reset.cfg ⟨0x22010009, 0, []⟩ = true ∧
    (illegalCommand State.reset.cfg ⟨0x22000041, 0, []⟩ = false ∧
      State.reset.cfg.capWords < (Transaction.imm ⟨0x22000041, 0, []⟩).toNat) ∧
    (illegalCommand State.reset.cfg ⟨0x22000040, 0, []⟩ = false ∧
      (Transaction.imm ⟨0x22000040, 0, []⟩).toNat ≤ State.reset.cfg.capWords) := by decide +kernel

theorem wit_RangeBeyondCapacityIsFatal :
    State.reset.fatal = false ∧ State.reset.cfg.capWords < (65 : Word).toNat ∧
    State.reset.cfg.capWords < (60 : Word).toNat + (5 : Word).toNat ∧
    State.reset.cfg.capWords < (0xFFFF : Word).toNat + (1 : Word).toNat := by decide +kernel

/-- A written range, the empty range at the end, and the full capacity. -/
theorem wit_ComputeCrcReturnsTheRangeCrc :
    ((tx1 refWords).fatal = false ∧ (0 : Word).toNat + (6 : Word).toNat ≤ 64 ∧
      (∀ k, k < refWords.length →
        (tx1 refWords).word? ⟨.tx, .s1⟩ ((0 : Word).toNat + k) = refWords[k]?) ∧
      (6 : Word).toNat = refWords.length) ∧
    (64 : Word).toNat + (0 : Word).toNat ≤ State.reset.cfg.capWords ∧
    (60 : Word).toNat + (4 : Word).toNat ≤ State.reset.cfg.capWords := by decide +kernel

/-- The shortest list the second and third clauses speak of. -/
theorem wit_CrcAppendedFrameIsValid : 2 ≤ ([0xFF, 0xFF] : List Byte).length := by decide

/-- The reference frame is CRC-valid; its last byte and bit are in range. -/
theorem wit_SingleBitErrorIsDetected :
    CrcValid [0x01, 0x03, 0x00, 0x00, 0x00, 0x0A, 0xC5, 0xCD] ∧
    7 < [(0x01 : Byte), 0x03, 0x00, 0x00, 0x00, 0x0A, 0xC5, 0xCD].length ∧ 7 < 8 := by
  unfold CrcValid
  decide +kernel

/-! ### Reads and transmit -/

/-- RX1 with one word declared and none written. -/
def unwritten : State :=
  { State.reset with rx := State.reset.rx.set .s1 { Buffer.reset with len := 1 } }

/-- RX1 with a written word and, after it, an unwritten one. -/
def halfWritten : State :=
  { State.reset with rx := State.reset.rx.set .s1 { Buffer.reset with mem := [(0, 0x0015)], len := 2 } }

/-- A read over a written and an unwritten word. -/
theorem wit_ReadsTakeBytesAtTheCursor_unwritten :
    halfWritten.fatal = false ∧
    (halfWritten.buf ⟨.rx, .s1⟩).ridx.toNat + 2 ≤ (halfWritten.buf ⟨.rx, .s1⟩).len.toNat ∧
    halfWritten.word? ⟨.rx, .s1⟩ ((halfWritten.buf ⟨.rx, .s1⟩).ridx.toNat + 0) = some 0x0015 ∧
    halfWritten.word? ⟨.rx, .s1⟩ ((halfWritten.buf ⟨.rx, .s1⟩).ridx.toNat + 1) = none := by
  decide +kernel

/-- Reads of 0, 1, 2 and 4 bytes that end at LEN_b, all of them written words. -/
theorem wit_ReadsTakeBytesAtTheCursor :
    ∀ ws ∈ ([[], [0x0015], [0x0025, 0x0069], [0x0003, 0x0005, 0x0007, 0x0009]] :
        List (List Word)),
      (rx1 ws).fatal = false ∧
      ((rx1 ws).buf ⟨.rx, .s1⟩).ridx.toNat + ws.length ≤ ((rx1 ws).buf ⟨.rx, .s1⟩).len.toNat ∧
      (∀ k, k < ws.length → (rx1 ws).word? ⟨.rx, .s1⟩
        (((rx1 ws).buf ⟨.rx, .s1⟩).ridx.toNat + k) = ws[k]?) ∧
      (BitVec.ofNat 16 ws.length).toNat = ws.length := by decide +kernel

theorem wit_RawWordReadReturnsTheWord :
    ((rx1 [0xF000]).fatal = false ∧ (rx1 [0xF000]).rx.s1.ridx.toNat + 1 ≤ 1 ∧
      (rx1 [0xF000]).rx.s1.len.toNat = 1 ∧ (rx1 [0xF000]).word? ⟨.rx, .s1⟩ 0 = some 0xF000) ∧
    (unwritten.fatal = false ∧ unwritten.rx.s1.ridx.toNat + 1 ≤ unwritten.rx.s1.len.toNat ∧
      unwritten.word? ⟨.rx, .s1⟩ 0 = none) := by decide +kernel

/-- One word short for each width; READ_STRING of one byte of an empty buffer. -/
theorem wit_ReadPastEndIsFatal :
    ∀ p ∈ ([([], 1), ([0x0025], 2), ([0x0003, 0x0005, 0x0007], 4)] : List (List Word × Nat)),
      (rx1 p.1).fatal = false ∧
      ((rx1 p.1).buf ⟨.rx, .s1⟩).len.toNat < ((rx1 p.1).buf ⟨.rx, .s1⟩).ridx.toNat + p.2 := by
  decide +kernel

/-- The cursor at the length, and one beyond it. -/
theorem wit_EmptyStringReadFaultsOnlyBeyondTheLength :
    State.reset.fatal = false ∧ State.reset.rx.s1.ridx.toNat ≤ State.reset.rx.s1.len.toNat ∧
    (State.reset.setBuf ⟨.rx, .s1⟩ { Buffer.reset with ridx := 1 }).fatal = false ∧
    ((State.reset.setBuf ⟨.rx, .s1⟩ { Buffer.reset with ridx := 1 }).buf ⟨.rx, .s1⟩).len.toNat <
      ((State.reset.setBuf ⟨.rx, .s1⟩ { Buffer.reset with ridx := 1 }).buf ⟨.rx, .s1⟩).ridx.toNat := by
  decide +kernel

theorem wit_UnwrittenWordsAreFreshDraws :
    Memory.word? [(1, 0x0015)] (0 + 1) = some 0x0015 ∧ Memory.word? [(1, 0x0015)] (0 + 2) = none := by
  decide +kernel

/-- Transmit and receive buffers, with a field that ends at CAP_WORDS for each width. -/
theorem wit_WrittenFieldsReadBack :
    State.reset.cfg.wf = true ∧ State.reset.fatal = false ∧
    (BufId.kind ⟨.tx, .s1⟩ = .tx ∧ State.reset.cfg.rxByteLsb = 1) ∧
    (64 : Word).toNat ≤ State.reset.cfg.capWords ∧
    ((tx1At 63).buf ⟨.tx, .s1⟩).widx.toNat + 1 ≤ (64 : Word).toNat ∧
    ((tx1At 62).buf ⟨.tx, .s1⟩).widx.toNat + 2 ≤ (64 : Word).toNat ∧
    ((tx1At 60).buf ⟨.tx, .s1⟩).widx.toNat + 4 ≤ (64 : Word).toNat ∧
    (([0x41, 0x42] : List Byte).length = (2 : Word).toNat ∧
      ((tx1At 62).buf ⟨.tx, .s1⟩).widx.toNat + (2 : Word).toNat ≤ (64 : Word).toNat) := by
  decide +kernel

theorem wit_TxSendAppendsTheBuffer :
    (tx1 refWords).fatal = false ∧
    (∀ k, k < refWords.length → (tx1 refWords).word? ⟨.tx, .s1⟩ (0 + k) = refWords[k]?) ∧
    refWords.length = ((tx1 refWords).tx.get .s1).len.toNat ∧
    (Transaction.op ⟨0x30800000, 0, []⟩ = 0x30 ∧ 8 ≤ (Transaction.buf ⟨0x30800000, 0, []⟩).toNat) ∧
    (Transaction.op ⟨0x30500000, 0, []⟩ = 0x30 ∧
      reservedBuf (Transaction.buf ⟨0x30500000, 0, []⟩) = true) := by decide +kernel

/-- A TX_SEND of the stream and another command. -/
theorem wit_TransmitStreamsOnlyGrow :
    (∃ t, step (asked (tx1 refWords) 0x30000000 0 []) = .next t) ∧
    (∃ t, step (asked (tx1 refWords) 0x41000000 0 []) = .next t) ∧
    decode ⟨0x41000000, 0, []⟩ ≠ some (.txSend .s1) := ⟨⟨_, rfl⟩, ⟨_, rfl⟩, by decide +kernel⟩

/-! ### The response parser -/

/-- Codes at the ends of both ranges, legal and not. -/
theorem wit_ParseOfNonReceiveBufferWarns :
    State.reset.cfg.wf = true ∧ State.reset.fatal = false ∧
    (∀ t ∈ ([⟨0x40000000, 0, []⟩, ⟨0x40700000, 0, []⟩, ⟨0x40D00000, 0, []⟩, ⟨0x40F10000, 0, []⟩] :
      List Transaction),
      (State.reset.offer t).inputs = [.command t] ∧ t.op = 0x40 ∧
      (t.buf.toNat < 8 ∨ 12 < t.buf.toNat)) ∧
    (Transaction.sub ⟨0x40D00000, 0, []⟩ = 0 ∧ Transaction.imm ⟨0x40D00000, 0, []⟩ = 0) ∧
    Transaction.sub ⟨0x40F10000, 0, []⟩ ≠ 0 := by decide +kernel

/-- A PARSE that ends without a fault, one that takes the fatal fault, and a subnet with no device at all. -/
theorem wit_ParseCommitsTheReadCursor_fatal :
    (rx1 recCls3).cfg.wf = true ∧ (rx1 recCls3).fatal = false ∧ rxOfCode 8 = some .s1 ∧
    (nextOf (exec (.parse 8) (rx1 recCls3))).map (·.fatal) = some true ∧
    (nextOf (exec (.parse 8) loaded)).map (·.fatal) = some false := by decide +kernel

/-- Subnet 3 of REFCFG has no device at all. -/
theorem wit_ParseCommitsTheReadCursor :
    loaded.cfg.wf = true ∧ loaded.fatal = false ∧ rxOfCode 0xA = some .s3 ∧
    ∀ a i, Config.device? loaded.cfg .s3 a ≠ some (none, i) := by
  refine ⟨by decide +kernel, rfl, by decide +kernel, fun a i h => ?_⟩
  simp [Config.device?, loaded, owed, rx1, State.reset, State.resetWith, Config.refcfg] at h

/-- A class-code-3 record. -/
theorem wit_ParseFollowsTheOutcomeTable_classThree :
    RxHolds (rx1 recCls3) .s1 [(recCls3, frameCls3)] [] ∧
    frameOutcome (rx1 recCls3).cfg .s1 frameCls3 = .classThree := by
  refine ⟨⟨fun r hr => ?_, .inl (by decide +kernel), ?_, by decide +kernel⟩, by decide +kernel⟩
  · obtain rfl := List.mem_singleton.1 hr
    exact ⟨by decide +kernel, by decide +kernel, by decide +kernel⟩
  · show ∀ k, k < 9 → (rx1 recCls3).word? ⟨.rx, .s1⟩ (0 + k) = recCls3[k]?
    decide +kernel

/-- A record and a truncated header, and a class-code-3 record. -/
theorem wit_ParseFollowsTheOutcomeTable :
    (owed (rx1 (recSt ++ [7]))).cfg.wf = true ∧ (owed (rx1 (recSt ++ [7]))).fatal = false ∧
    rxOfCode 8 = some .s1 ∧ RxHolds (owed (rx1 (recSt ++ [7]))) .s1 [(recSt, frameSt)] [7] ∧
    frameOutcome Config.refcfg .s1 frameCls3 = .classThree :=
  ⟨by decide +kernel, rfl, rfl, wit_holds_tail, by decide +kernel⟩

/-- A truncated header, and a header whose body is one word short. -/
theorem wit_TruncatedRecordEndsTheParse :
    RxHolds (rx1 [7]) .s1 [] [7] ∧ RxHolds (rx1 [1, 0]) .s1 [] [1, 0] ∧
    (rx1 [1, 0]).cfg.wf = true ∧ (rx1 [1, 0]).fatal = false ∧ rxOfCode 8 = some .s1 := by
  refine ⟨⟨by simp, .inl (by decide +kernel), ?_, by decide +kernel⟩,
    ⟨by simp, .inr (by decide +kernel), ?_, by decide +kernel⟩, by decide +kernel, rfl, rfl⟩
  · show ∀ k, k < 1 → (rx1 [7]).word? ⟨.rx, .s1⟩ (0 + k) = [(7 : Word)][k]?
    decide +kernel
  · show ∀ k, k < 2 → (rx1 [1, 0]).word? ⟨.rx, .s1⟩ (0 + k) = [(1 : Word), 0][k]?
    decide +kernel

theorem wit_WellFormedResponseIsDecoded :
    loaded.Inv ∧ loaded.fatal = false ∧ rxOfCode 8 = some .s1 ∧
    RxHolds loaded .s1 [(recSt, 0x0A :: 0x12 :: ([0x01, 0x00, 0x05] ++ [0x28, 0xBA]))] [] ∧
    crc16 (0x0A :: 0x12 :: [0x01, 0x00, 0x05]) = (0xBA : Byte) ++ (0x28 : Byte) ∧
    Config.device? loaded.cfg .s1 0x0A = some (some .fa, 0) ∧ (0x12 : Byte).toNat < 128 ∧
    Config.shape? loaded.cfg .fa 0x12 = some (7, .moves [(0, 0), (1, 1), (2, 2)]) ∧
    7 = ([0x01, 0x00, 0x05] : List Byte).length + 4 ∧ loaded.exp.get .fa 0 0 ≠ 0 ∧
    ((rx1 recSt).Inv ∧ (rx1 recSt).exp.get .fa 0 0 = 0) ∧
    loaded.cfg.hdrWords = 2 ∧ recSt[1]? = some 0x1234 :=
  ⟨wit_inv_loaded, rfl, rfl, wit_holds_loaded, by decide +kernel, by decide +kernel, by decide,
    by decide +kernel, rfl, by decide +kernel, ⟨wit_inv_unowed, by decide +kernel⟩, rfl, rfl⟩

theorem wit_ExceptionResponseSetsItsWarning :
    (owed (rx1 recExc)).Inv ∧ (owed (rx1 recExc)).fatal = false ∧ rxOfCode 8 = some .s1 ∧
    RxHolds (owed (rx1 recExc)) .s1 [(recExc, [0x0A, 0x92, 0x03, 0x7C, 0xA3])] [] ∧
    crc16 [0x0A, 0x92, 0x03] = (0xA3 : Byte) ++ (0x7C : Byte) ∧
    Config.device? (owed (rx1 recExc)).cfg .s1 0x0A = some (some .fa, 0) ∧
    128 ≤ (0x92 : Byte).toNat ∧ (owed (rx1 recExc)).exp.get .fa 0 0 ≠ 0 ∧
    (owed (rx1 recExc)).cfg.hdrWords = 2 ∧ recExc[1]? = some 0x0006 :=
  ⟨wit_inv_exception, rfl, rfl, wit_holds_exception, by decide +kernel, by decide +kernel,
    by decide, by decide +kernel, rfl, rfl⟩

/-- HP 1 stands on no subnet of REFCFG, FA 0 on subnet 1. -/
theorem wit_ParseChangesOnlyItsSubnet :
    rxOfCode 8 = some .s1 ∧ (∃ t, exec (.parse 8) loaded = .next t) ∧
    Config.onSubnet loaded.cfg .s1 .fa 0 := ⟨rfl, ⟨_, rfl⟩, 0x0A, by decide +kernel⟩

/-- Two states that differ in another subnet's warnings, timestamp and buffer. -/
theorem wit_ParseDependsOnlyOnItsSubnet :
    loaded.Inv ∧ (loaded.warnSubnet .s2 .invalidCrc).Inv ∧ rxOfCode 8 = some .s1 ∧
    AgreeOnSubnet .s1 loaded (loaded.warnSubnet .s2 .invalidCrc) ∧
    loaded ≠ loaded.warnSubnet .s2 .invalidCrc ∧
    (∃ t, exec (.parse 8) loaded = .next t) ∧
    ∃ t, exec (.parse 8) (loaded.warnSubnet .s2 .invalidCrc) = .next t := by
  refine ⟨wit_inv_loaded, ?_, rfl, ⟨rfl, rfl, rfl, rfl, rfl, ⟨rfl, rfl, rfl⟩, fun _ _ _ => rfl,
    fun _ _ _ => rfl, fun _ _ _ => rfl⟩, by decide +kernel, ⟨_, rfl⟩, _, rfl⟩
  exact ⟨wit_inv_loaded.cfg, wit_inv_loaded.buf, wit_inv_loaded.exp, wit_inv_loaded.tel,
    wit_inv_loaded.devwarn, wit_inv_loaded.timeout, wit_inv_loaded.rxts, rfl,
    wit_inv_loaded.noFault, wit_inv_loaded.fault⟩

/-- A counter at 1 and a counter at 0, at the last index of the class. -/
theorem wit_AccountCreditsOneResponse :
    loaded.Inv ∧ 3 < loaded.cfg.count .fa ∧ 0 < (loaded.exp.get .fa 0 0).toNat ∧
    (loaded.exp.get .fa 3 0).toNat = 0 :=
  ⟨wit_inv_loaded, by decide +kernel, by decide +kernel, by decide +kernel⟩

theorem wit_AccountingOfOneBufferIsExact :
    loaded.Inv ∧ loaded.fatal = false ∧ rxOfCode 8 = some .s1 ∧
    RxHolds loaded .s1 [(recSt, frameSt)] [] ∧
    NoClassThree loaded.cfg .s1 [(recSt, frameSt)] ∧ 0 < loaded.cfg.count .fa ∧
    creditCount loaded.cfg .s1 [(recSt, frameSt)] .fa 0 = 1 :=
  ⟨wit_inv_loaded, rfl, rfl, wit_holds_loaded, wit_no_class_three, by decide +kernel,
    by decide +kernel⟩

/-- The records of each buffer of `loaded`: one on subnet 1, none elsewhere. -/
def recsOf : Subnet → List (List Word × List Byte)
  | .s1 => [(recSt, frameSt)]
  | .s2 | .s3 | .s4 | .s5 => []

theorem wit_AllBuffersParsedLeavesNothingOwed :
    loaded.Inv ∧ loaded.fatal = false ∧ (∀ sn, RxHolds loaded sn (recsOf sn) []) ∧
    (∀ sn, NoClassThree loaded.cfg sn (recsOf sn)) ∧
    (∀ c i, i < loaded.cfg.count c → (loaded.exp.get c i 0).toNat =
      creditCount loaded.cfg .s1 (recsOf .s1) c i + creditCount loaded.cfg .s2 (recsOf .s2) c i +
      creditCount loaded.cfg .s3 (recsOf .s3) c i + creditCount loaded.cfg .s4 (recsOf .s4) c i +
      creditCount loaded.cfg .s5 (recsOf .s5) c i) := by
  refine ⟨wit_inv_loaded, rfl, fun sn => ?_, fun sn => ?_, fun c => ?_⟩
  · cases sn
    case s1 => exact wit_holds_loaded
    all_goals exact ⟨by simp [recsOf], .inl (by decide +kernel), fun k hk => absurd hk (by simp [recsOf]),
      by decide +kernel⟩
  · cases sn
    case s1 => exact wit_no_class_three
    all_goals exact fun r hr => absurd hr (by simp [recsOf])
  · cases c <;> decide +kernel

/-! ### Verification, counters and warning registers -/

theorem wit_VerifyFlagsExactlyOwedDevices :
    loaded.Inv ∧ loaded.fatal = false ∧ 3 < loaded.cfg.count .fa ∧
    loaded.cfg.nfa + 6 + loaded.cfg.nhm < 2 ^ 32 :=
  ⟨wit_inv_loaded, rfl, by decide +kernel, by decide +kernel⟩

theorem wit_ExpectedCountersAreSetReadAndCleared :
    loaded.Inv ∧ loaded.fatal = false ∧ (5 : Word).toNat < loaded.cfg.count .hm :=
  ⟨wit_inv_loaded, rfl, by decide +kernel⟩

theorem wit_RegisterReadsReturnThem :
    loaded.fatal = false ∧ (5 : Word).toNat < loaded.cfg.count .hp :=
  ⟨rfl, by decide +kernel⟩

theorem wit_ClearWarningsClearsOnlyWarnings : loaded.Inv ∧ loaded.fatal = false :=
  ⟨wit_inv_loaded, rfl⟩

/-- A command that sets a warning, and one that must keep it. -/
theorem wit_WarningsAreSticky :
    Instr.parse 0 ≠ .clearWarnings ∧
    ∃ t, exec (.parse 0) (loaded.warnSubnet .s2 .invalidCrc) = .next t := ⟨by decide, _, rfl⟩

/-! ### Whole-machine rules -/

theorem wit_OnlyTheirCommandsWriteState :
    loaded.cfg.wf = true ∧ (∃ t, exec (.txSend .s1) loaded = .next t) ∧
    Element.rxts ∉ writesElements (.txSend .s1) := ⟨by decide +kernel, ⟨_, rfl⟩, by decide⟩

/-- A write, and a command that is neither a write nor SET_LENGTH nor CLEAR. -/
theorem wit_WritesLeaveLengthAndReadCursor :
    (isWrite loaded.cfg (.writeTrigger ⟨.tx, .s1⟩) ∧
      ∃ t, exec (.writeTrigger ⟨.tx, .s1⟩) loaded = .next t) ∧
    (∃ t, exec .verifyResponses loaded = .next t) := ⟨⟨.inl rfl, _, rfl⟩, _, rfl⟩

theorem wit_FifoWordsAreNoCommands : State.reset.fatal = false := rfl

end Sys2Proof.Tests
end

section
/-! The step by the host's oldest input, one equation per case, and the statements about the step and its
stops (00_scope.md R7, R12, 20_memory.md R62, 60_exceptions.md R234). -/

namespace Sys2Proof.Machine

open Sys2Proof

/-! ## What one step is, by case -/

/-- A configuration that breaks R12 or R76 is refused. -/
theorem step_of_inadmissible {s : State} (hwf : s.cfg.wf = false) :
    step s = .refused .configurationRefused := by simp [step, hwf]

/-- With nothing offered the block waits outside the fatal state. -/
theorem step_of_waiting {s : State} (hwf : s.cfg.wf = true) (hin : s.inputs = [])
    (hf : s.fatal = false) : step s = .next s := by
  simp [step, hwf, State.takeInput, hin, State.noInput, hf]

/-- With nothing offered in the fatal state the run has ended in a fault (R234). -/
theorem step_of_fatal_end {s : State} (hwf : s.cfg.wf = true) (hin : s.inputs = [])
    (hf : s.fatal = true) : step s = .fault (.endedInFatalState s.fcause) := by
  simp [step, hwf, State.takeInput, hin, State.noInput, hf]

/-- With an input offered the step takes it and runs it. -/
theorem step_of_input {s : State} {x : Input} {rest : List Input} (hwf : s.cfg.wf = true)
    (hin : s.inputs = x :: rest) : step s = { s with inputs := rest }.runInput x := by
  simp [step, hwf, State.takeInput, hin]

/-- A transaction that decodes runs its command. -/
theorem step_of_decoded {s : State} {t : Transaction} {rest : List Input} {i : Instr}
    (hwf : s.cfg.wf = true) (hin : s.inputs = .command t :: rest) (hd : decode t = some i) :
    step s = exec i { s with inputs := rest } := by
  simp [step_of_input hwf hin, State.runInput, State.runTransaction, hd]

/-- A transaction that does not decode is no command (R80 (a)). -/
theorem step_of_undecoded {s : State} {t : Transaction} {rest : List Input}
    (hwf : s.cfg.wf = true) (hin : s.inputs = .command t :: rest) (hd : decode t = none) :
    step s = notACommand t.cmd { s with inputs := rest } := by
  simp [step_of_input hwf hin, State.runInput, State.runTransaction, hd]

/-- The reset input restores the reset values (R260). -/
theorem step_of_reset {s : State} {rest : List Input} (hwf : s.cfg.wf = true)
    (hin : s.inputs = .reset :: rest) :
    step s = .next { s with inputs := rest }.resetInput := by
  simp [step_of_input hwf hin, State.runInput]

/-! ## No input stops the machine -/

/-- A word that is no command answers a next state too. -/
theorem notACommand_next (cmd : DWord) (s : State) : ∃ t, notACommand cmd s = .next t := by
  unfold notACommand; split <;> exact ⟨_, rfl⟩

/-- A step with an input offered answers a next state under an admitted configuration. -/
theorem step_next_of_input {s : State} {x : Input} {rest : List Input} (hwf : s.cfg.wf = true)
    (hin : s.inputs = x :: rest) : ∃ t, step s = .next t := by
  cases x with
  | reset => exact ⟨_, step_of_reset hwf hin⟩
  | command t =>
    cases hd : decode t with
    | none => rw [step_of_undecoded hwf hin hd]; exact notACommand_next _ _
    | some i => rw [step_of_decoded hwf hin hd]; exact exec_next _ _

/-! ## The two stops -/

/-- How a step can end: refused, in the fault at the end of a fatal run, or in a next state. -/
theorem step_cases (s : State) :
    (s.cfg.wf = false ∧ step s = .refused .configurationRefused) ∨
    (s.cfg.wf = true ∧ s.inputs = [] ∧ s.fatal = true ∧
      step s = .fault (.endedInFatalState s.fcause)) ∨
    (s.cfg.wf = true ∧ (s.inputs = [] → s.fatal = false) ∧ ∃ t, step s = .next t) := by
  cases hwf : s.cfg.wf with
  | false => exact .inl ⟨rfl, step_of_inadmissible hwf⟩
  | true =>
    cases hin : s.inputs with
    | cons x rest => exact .inr (.inr ⟨rfl, nofun, step_next_of_input hwf hin⟩)
    | nil =>
      cases hf : s.fatal with
      | false => exact .inr (.inr ⟨rfl, fun _ => rfl, s, step_of_waiting hwf hin hf⟩)
      | true => exact .inr (.inl ⟨rfl, rfl, rfl, step_of_fatal_end hwf hin hf⟩)

/-- A step faults exactly at the end of a fatal run (R234, log 3). -/
theorem step_fault_iff (s : State) (f : Fault) :
    step s = .fault f ↔
      s.cfg.wf = true ∧ s.inputs = [] ∧ s.fatal = true ∧ f = .endedInFatalState s.fcause := by
  obtain ⟨hwf, hs⟩ | ⟨hwf, hin, hf, hs⟩ | ⟨-, hlive, t, hs⟩ := step_cases s
  · simp [hs, hwf]
  · simp [hs, hwf, hin, hf, eq_comm]
  · rw [hs]
    exact ⟨nofun, fun ⟨_, hin, hf, _⟩ => by simp [hlive hin] at hf⟩

/-- A step is refused exactly under a configuration that breaks R12 or R76 (log 10). -/
theorem step_refused_iff (s : State) (r : Refusal) :
    step s = .refused r ↔ s.cfg.wf = false ∧ r = .configurationRefused := by
  obtain ⟨hwf, hs⟩ | ⟨hwf, -, -, hs⟩ | ⟨hwf, -, t, hs⟩ := step_cases s
  · simp [hs, hwf, eq_comm]
  · simp [hs, hwf]
  · simp [hs, hwf]

/-! ## The statements -/

/-- Settles O10: the equation of the step for a transaction that decodes. -/
theorem stepRunsTheDecodedCommand : Obligations.StepRunsTheDecodedCommand :=
  fun _ _ _ _ hwf hin hd => step_of_decoded hwf hin hd

/-- Settles O14, by the three ways a step can end (`step_cases`): no input stops the machine, since every
instruction answers a next state. -/
theorem stepStopsOnlyInTwoCases : Obligations.StepStopsOnlyInTwoCases :=
  fun s => ⟨step_fault_iff s, step_refused_iff s, step_of_waiting⟩

end Sys2Proof.Machine
end

section
/-! The parser's writes, one at a time, and what a whole PARSE comes to: any number of such writes, then
P_DONE's cursor or the class-code-3 fault (43_response_parser.md R181 to R194, 60_exceptions.md R236). -/

namespace Sys2Proof.Machine

open Sys2Proof

/-! ## The single writes of the parser -/

/-- One write that the FSM makes on its way, the cursor and the fault registers apart. -/
inductive Touch (sn : Subnet) (s : State) : State → Prop
  | goto (q : PState) : Touch sn s (s.goto q)
  | read (d : Nat) (q : PState) : Touch sn s { s with draws := d, pstate := q }
  | stamp (ws : List Word) (hws : ws.length = s.cfg.hdrWords - 1) :
      Touch sn s { s with rxts := s.rxts.set sn (timestamp ws) }
  | warnSubnet (w : SubWarning) : Touch sn s (s.warnSubnet sn w)
  | warnDevice (c : DevClass) (i : Nat) (w : DevWarning) : Touch sn s (s.warnDevice c i w)
  | credit (c : DevClass) (i : Nat) (e : BitVec 2) : Touch sn s { s with exp := s.exp.set c i e }
  | decode (c : DevClass) (i : Nat) (r : TelRec) : Touch sn s { s with tel := s.tel.set c i r }

/-- Any number of the parser's writes. -/
abbrev Touches (sn : Subnet) : State → State → Prop := Relation.ReflTransGen (Touch sn)

/-- Everything that none of the parser's writes changes. -/
structure KeptByParser (s t : State) : Prop where
  cfg : t.cfg = s.cfg
  inputs : t.inputs = s.inputs
  tx : t.tx = s.tx
  rx : t.rx = s.rx
  result : t.result = s.result
  rbytes : t.rbytes = s.rbytes
  timeout : t.timeout = s.timeout
  unknownSubnet : t.unknownSubnet = s.unknownSubnet
  fatal : t.fatal = s.fatal
  fcause : t.fcause = s.fcause
  fcmd : t.fcmd = s.fcmd
  txout : t.txout = s.txout

theorem KeptByParser.trans {s t u : State} (h : KeptByParser s t) (h' : KeptByParser t u) :
    KeptByParser s u :=
  ⟨h'.cfg.trans h.cfg, h'.inputs.trans h.inputs, h'.tx.trans h.tx, h'.rx.trans h.rx,
    h'.result.trans h.result, h'.rbytes.trans h.rbytes, h'.timeout.trans h.timeout,
    h'.unknownSubnet.trans h.unknownSubnet, h'.fatal.trans h.fatal, h'.fcause.trans h.fcause,
    h'.fcmd.trans h.fcmd, h'.txout.trans h.txout⟩

theorem Touch.kept {sn : Subnet} {s t : State} (h : Touch sn s t) : KeptByParser s t := by
  cases h <;> constructor <;> rfl

theorem Touches.kept {sn : Subnet} {s t : State} (h : Touches sn s t) : KeptByParser s t := by
  induction h with
  | refl => constructor <;> rfl
  | tail _ h ih => exact ih.trans h.kept

/-- Crediting a response is one of the parser's writes (R192). -/
theorem State.account_touch (sn : Subnet) (s : State) (c : DevClass) (i : Nat) :
    Touch sn s (s.account c i) := by
  obtain ⟨-, h⟩ | ⟨-, h⟩ := s.account_cases c i
  · rw [h]; exact .warnDevice c i .unexpectedResponse
  · rw [h]; exact .credit c i _

/-! ## One transition -/

/-- A parse of s that has not ended, at the variables v and the state u: nothing but the parser's writes has
happened, and the next word lies between RIDX_b and the end of the data. -/
structure Running (sn : Subnet) (s : State) (x : ParseVars × State) : Prop where
  touches : Touches sn s x.2
  active : x.2.pstate ≠ .idle
  limit : x.1.n = (s.rx.get sn).len.toNat
  lower : (s.rx.get sn).ridx.toNat ≤ x.1.p
  upper : x.1.p ≤ max (s.rx.get sn).ridx.toNat x.1.n
  body : x.2.pstate = .body → x.1.p ≤ x.1.n
  atEnd : x.2.pstate = .done → x.1.n ≤ x.1.p

/-- RIDX_b of s moved to the end of the data, or left where it is if that is further (R193). -/
def State.parsedBuf (s : State) (sn : Subnet) : Buffer :=
  { s.rx.get sn with
    ridx := BitVec.ofNat 16 (max (s.rx.get sn).ridx.toNat (s.rx.get sn).len.toNat) }

/-- How a parse of s ends: at a class-code-3 record, in the fatal fault (R236), or in P_DONE, which commits
the read cursor (R193). -/
inductive Ended (sn : Subnet) (cmd : DWord) (s : State) : State → Prop
  | classThree (u : State) (a : Byte) (i : Nat) (hu : Touches sn s u)
      (ha : Config.device? s.cfg sn a = some (none, i)) :
      Ended sn cmd s (u.raise .unknownDeviceClass cmd)
  | committed (u : State) (hu : Touches sn s u) :
      Ended sn cmd s ((u.setBuf ⟨.rx, sn⟩ (s.parsedBuf sn)).goto .idle)

theorem Ended.pstate {sn : Subnet} {cmd : DWord} {s t : State} (h : Ended sn cmd s t) :
    t.pstate = .idle := by
  cases h <;> simp

section
variable {sn : Subnet} {cmd : DWord} {s u u' : State} {v v' : ParseVars}

/-- A transition that goes on makes some of the parser's writes and moves p on, at most to n. -/
theorem Running.next (h : Running sn s (v, u)) (ht : Touches sn u u') (hn : v'.n = v.n)
    (hp : v.p ≤ v'.p) (hle : v'.p ≤ max v.p v.n) (ha : u'.pstate ≠ .idle)
    (hb : u'.pstate = .body → v'.p ≤ v.n) (hd : u'.pstate = .done → v.n ≤ v'.p) :
    Running sn s (v', u') where
  touches := h.touches.trans ht
  active := ha
  limit := hn.trans h.limit
  lower := h.lower.trans hp
  upper := by have := h.upper; simp only at this ⊢; omega
  body := hn ▸ hb
  atEnd := hn ▸ hd

/-- A transition that leaves p where it is. -/
theorem Running.stay (h : Running sn s (v, u)) {q : PState} (ht : Touches sn u u')
    (hn : v'.n = v.n) (hp : v'.p = v.p) (ha : q ≠ .idle) (hb : q ≠ .body) (hd : q ≠ .done) :
    Running sn s (v', u'.goto q) :=
  h.next (ht.tail (.goto q)) hn hp.ge (hp ▸ Nat.le_max_left _ _) ha (absurd · hb) (absurd · hd)

theorem Running.skipRecord (h : Running sn s (v, u)) (w : SubWarning) :
    Running sn s (skipRecord sn w v u) :=
  h.stay (.single (.warnSubnet w)) rfl rfl nofun nofun nofun

theorem Running.endTruncated (h : Running sn s (v, u)) (hv : v.p ≤ v.n) :
    Running sn s (endTruncated sn v u) :=
  h.next (.tail (.single (.warnSubnet .invalidLength)) (.goto .done)) rfl hv
    (Nat.le_max_right _ _) nofun nofun fun _ => Nat.le_refl _

theorem Running.parseHeader (h : Running sn s (v, u)) : Running sn s (parseHeader sn v u) := by
  unfold Machine.parseHeader
  by_cases hdone : v.n ≤ v.p
  · rw [if_pos hdone]
    exact h.next (.single (.goto .done)) rfl (Nat.le_refl _) (Nat.le_max_left _ _) nofun nofun
      fun _ => hdone
  rw [if_neg hdone]
  by_cases hshort : v.n - v.p < u.cfg.hdrWords
  · rw [if_pos hshort]
    exact h.endTruncated (Nat.le_of_not_le hdone)
  rw [if_neg hshort]
  have hin : v.p + u.cfg.hdrWords ≤ v.n := by omega
  refine h.next ?_ rfl (Nat.le_add_right _ _) (hin.trans (Nat.le_max_right _ _)) nofun
    (fun _ => hin) nofun
  split
  · exact .tail (.single (.stamp _ (by simp))) (.read _ .body)
  · exact .single (.read _ .body)

theorem Running.parseBody (h : Running sn s (v, u)) (hq : u.pstate = .body) :
    Running sn s (parseBody sn v u) := by
  have hv : v.p ≤ v.n := h.body hq
  unfold Machine.parseBody
  by_cases hshort : v.n - v.p < v.len
  · rw [if_pos hshort]
    exact h.endTruncated hv
  rw [if_neg hshort]
  have hin : v.p + v.len ≤ v.n := by omega
  exact h.next (.single (.read _ .check)) rfl (Nat.le_add_right _ _)
    (hin.trans (Nat.le_max_right _ _)) nofun nofun nofun

theorem Running.parseCheck (h : Running sn s (v, u)) : Running sn s (parseCheck sn v u) := by
  unfold Machine.parseCheck
  split_ifs
  · exact h.skipRecord .invalidLength
  · exact h.stay .refl rfl rfl nofun nofun nofun
  · exact h.skipRecord .invalidCrc

theorem Running.parseException (h : Running sn s (v, u)) :
    Running sn s (parseException sn v u) := by
  unfold Machine.parseException
  split_ifs
  · exact h.stay (.tail (.single (.warnDevice ..)) (State.account_touch ..)) rfl rfl nofun nofun nofun
  · exact h.skipRecord .invalidLength

theorem Running.parseDecode (h : Running sn s (v, u)) : Running sn s (parseDecode v u) :=
  h.stay (.tail (.single (.decode ..)) (State.account_touch ..)) rfl rfl nofun nofun nofun

/-- P_DISPATCH goes on, except at a class-code-3 device (R187). -/
theorem Running.parseDispatch (h : Running sn s (v, u)) :
    Running sn s (parseDispatch sn cmd v u) ∨ Ended sn cmd s (parseDispatch sn cmd v u).2 := by
  unfold Machine.parseDispatch
  cases ha : Config.device? u.cfg sn (v.body.getD 0 0) with
  | none => exact .inl (h.skipRecord .unknownAddress)
  | some ci =>
    obtain ⟨_ | c, i⟩ := ci
    · exact .inr (.classThree u _ i h.touches (h.touches.kept.cfg ▸ ha))
    left
    dsimp only
    split
    · exact h.stay .refl rfl rfl nofun nofun nofun
    split
    · exact h.skipRecord .unknownFunction
    split
    · exact h.stay .refl rfl rfl nofun nofun nofun
    · exact h.skipRecord .invalidLength

/-- P_DONE commits the read cursor and ends the parse (R193). -/
theorem Running.parseDone (h : Running sn s (v, u)) (hq : u.pstate = .done) :
    Ended sn cmd s (parseDone sn v u).2 := by
  have hp : v.p = max (s.rx.get sn).ridx.toNat (s.rx.get sn).len.toNat := by
    have hlow := h.lower
    have hup := h.upper
    have hend := h.atEnd hq
    have hn := h.limit
    simp only at hlow hup hend hn
    omega
  unfold Machine.parseDone
  rw [h.touches.kept.rx, hp]
  exact .committed u h.touches

/-- Every transition of a running parse goes on or ends it. -/
theorem Running.parseStep {x : ParseVars × State} (h : Running sn s x) :
    Running sn s (parseStep sn cmd x) ∨ Ended sn cmd s (parseStep sn cmd x).2 := by
  obtain ⟨v, u⟩ := x
  unfold Machine.parseStep
  cases hq : u.pstate with
  | idle => exact absurd hq h.active
  | header => exact .inl h.parseHeader
  | body => exact .inl (h.parseBody hq)
  | check => exact .inl h.parseCheck
  | dispatch => exact h.parseDispatch
  | exception => exact .inl h.parseException
  | decode => exact .inl h.parseDecode
  | done => exact .inr (h.parseDone hq)

/-! ## A whole PARSE -/

theorem parseStart_running (sn : Subnet) (s : State) : Running sn s (parseStart sn s) where
  touches := .single (.goto .header)
  active := nofun
  limit := rfl
  lower := Nat.le_refl _
  upper := Nat.le_max_left _ _
  body := nofun
  atEnd := nofun

theorem Running.parseRun {x : ParseVars × State} (h : Running sn s x) (k : Nat) :
    Running sn s (parseRun sn cmd k x) ∨ Ended sn cmd s (parseRun sn cmd k x).2 := by
  induction k generalizing x with
  | zero => exact .inl h
  | succ k ih =>
    rw [Machine.parseRun, if_neg h.active]
    obtain hr | he := h.parseStep (cmd := cmd)
    · exact ih hr
    · rw [parseRun_idle sn cmd k he.pstate]
      exact .inr he

/-- What PARSE comes to under any configuration: the parser's writes, and one of the two ends unless the
transitions ran out, which an admitted configuration excludes (`State.parse_ended`). -/
theorem State.parse_cases (s : State) (sn : Subnet) (cmd : DWord) :
    Touches sn s (s.parse sn cmd) ∨ Ended sn cmd s (s.parse sn cmd) :=
  ((parseStart_running sn s).parseRun _).imp_left Running.touches

/-! ## PARSE ends (R194) -/

/-- A bound on the transitions still to come: at most five for each header word, then those of the record that
has been begun. -/
def transitionsLeft (x : ParseVars × State) : Nat :=
  match x.2.pstate with
  | .idle => 0
  | .done => 1
  | .header => 5 * (x.1.n - x.1.p) + 2
  | .exception | .decode => 5 * (x.1.n - x.1.p) + 3
  | .dispatch => 5 * (x.1.n - x.1.p) + 4
  | .check => 5 * (x.1.n - x.1.p) + 5
  | .body => 5 * (x.1.n - x.1.p) + 6

/-- Every transition brings the end nearer. -/
theorem transitionsLeft_parseStep {x : ParseVars × State} (h1 : 1 ≤ x.2.cfg.hdrWords)
    (ha : x.2.pstate ≠ .idle) : transitionsLeft (parseStep sn cmd x) < transitionsLeft x := by
  obtain ⟨v, u⟩ := x
  simp only at h1 ha
  unfold Machine.parseStep
  cases hq : u.pstate with
  | idle => exact absurd hq ha
  | header =>
    simp only [Machine.parseHeader, Machine.endTruncated]
    split_ifs <;> simp [transitionsLeft, hq] <;> omega
  | body =>
    simp only [Machine.parseBody, Machine.endTruncated]
    split_ifs <;> simp [transitionsLeft, hq]
    omega
  | check =>
    simp only [Machine.parseCheck, Machine.skipRecord]
    split_ifs <;> simp [transitionsLeft, hq]
  | dispatch =>
    simp only [Machine.parseDispatch, Machine.skipRecord]
    split
    · simp [transitionsLeft, hq]
    · simp [transitionsLeft, hq]
    · split_ifs
      · simp [transitionsLeft, hq]
      · split
        · simp [transitionsLeft, hq]
        · split_ifs <;> simp [transitionsLeft, hq]
  | exception =>
    simp only [Machine.parseException, Machine.skipRecord]
    split_ifs <;> simp [transitionsLeft, hq]
  | decode => simp [Machine.parseDecode, transitionsLeft, hq]
  | done => simp [Machine.parseDone, transitionsLeft, hq]

/-- With enough transitions allowed a running parse ends. -/
theorem Running.parseRun_ended {x : ParseVars × State} (h : Running sn s x)
    (h1 : 1 ≤ s.cfg.hdrWords) {k : Nat} (hk : transitionsLeft x ≤ k) :
    Ended sn cmd s (Machine.parseRun sn cmd k x).2 := by
  induction k generalizing x with
  | zero =>
    have := transitionsLeft_parseStep (sn := sn) (cmd := cmd)
      (h.touches.kept.cfg ▸ h1 : 1 ≤ x.2.cfg.hdrWords) h.active
    omega
  | succ k ih =>
    have hlt := transitionsLeft_parseStep (sn := sn) (cmd := cmd)
      (h.touches.kept.cfg ▸ h1 : 1 ≤ x.2.cfg.hdrWords) h.active
    rw [Machine.parseRun, if_neg h.active]
    obtain hr | he := h.parseStep (cmd := cmd)
    · exact ih hr (by omega)
    · rwa [parseRun_idle sn cmd k he.pstate]

/-- An admitted configuration has a header word (R78). -/
theorem Config.one_le_hdrWords {cfg : Config} (h : cfg.wf = true) : 1 ≤ cfg.hdrWords := by
  simp only [Config.wf, Bool.and_eq_true, decide_eq_true_eq] at h
  obtain ⟨⟨⟨⟨⟨-, hhdr⟩, -⟩, -⟩, -⟩, -⟩ := h
  exact hhdr

/-- PARSE ends in one of the two ways (R194). -/
theorem State.parse_ended (s : State) (sn : Subnet) (cmd : DWord) (h1 : 1 ≤ s.cfg.hdrWords) :
    Ended sn cmd s (s.parse sn cmd) :=
  (parseStart_running sn s).parseRun_ended h1
    (by simp [transitionsLeft, parseStart, parseFuel])

end
end Sys2Proof.Machine
end

section
/-! What one instruction can do, said once: the shapes of its next state, by which the statements about all
instructions argue (10_state.md R41, 60_exceptions.md R233, R234). -/

namespace Sys2Proof.Machine

open Sys2Proof

/-- Every change an instruction can make to s, by shape. The shapes that many instructions share name their
row of R41's table (`writesElements`); d counts the draws of unwritten words (R65). -/
inductive Effect (s : State) (i : Instr) : State → Prop
  | refused : Effect s i s
  | fault (c : Cause) (hf : s.fatal = false) : Effect s i (s.raise c (i.cmd s.cfg))
  | write (b : BufId) (ws : List Word) (d : Nat) (hi : writesElements i = [.mem, .widx])
      (room : (s.buf b).widx.toNat + ws.length ≤ s.cfg.capWords) :
      Effect s i ({ s with draws := d }.setBuf b
        { s.buf b with
          mem := Memory.storeAll (s.buf b).mem (s.buf b).widx.toNat ws
          widx := BitVec.ofNat 16 ((s.buf b).widx.toNat + ws.length) })
  | readResult (b : BufId) (n d : Nat) (v : DWord) (hi : writesElements i = [.ridx, .result])
      (avail : (s.buf b).ridx.toNat + n ≤ (s.buf b).len.toNat) :
      Effect s i (({ s with draws := d }.setBuf b
        { s.buf b with ridx := BitVec.ofNat 16 ((s.buf b).ridx.toNat + n) }).withResult v)
  | readString (b : BufId) (n d : Nat) (xs : List Byte)
      (hi : writesElements i = [.ridx, .rbytes])
      (avail : (s.buf b).ridx.toNat + n ≤ (s.buf b).len.toNat) :
      Effect s i { { s with draws := d }.setBuf b
        { s.buf b with ridx := BitVec.ofNat 16 ((s.buf b).ridx.toNat + n) } with rbytes := xs }
  | frameStart (b : BufId) (hi : i = .markStartOfFrame b) :
      Effect s i (s.setBuf b { s.buf b with fstart := (s.buf b).widx })
  | setIndex (b : BufId) (sel : Cursor) (v : Word) (hi : i = .setIndex b sel v)
      (hv : v.toNat ≤ s.cfg.capWords) : Effect s i (s.setBuf b ((s.buf b).setCursor sel v))
  | setLength (b : BufId) (v : Word) (hi : i = .setLength b v) (hv : v.toNat ≤ s.cfg.capWords) :
      Effect s i (s.setBuf b { s.buf b with len := v })
  | clear (b : BufId) (hi : i = .clear b) :
      Effect s i (s.setBuf b { s.buf b with widx := 0, ridx := 0, len := 0, fstart := 0 })
  | result (d : Nat) (v : DWord) (hi : writesElements i = [.result]) :
      Effect s i ({ s with draws := d }.withResult v)
  | send (sn : Subnet) (hi : i = .txSend sn) :
      Effect s i { s with
        draws := (s.sentWords sn).2
        txout := s.txout.set sn (s.txout.get sn ++ (s.sentWords sn).1) }
  | parse (code : BitVec 4) (sn : Subnet) (hi : i = .parse code) (hf : s.fatal = false) :
      Effect s i (s.parse sn (i.cmd s.cfg))
  | unknownSubnet (code : BitVec 4) (hi : i = .parse code) :
      Effect s i { s with unknownSubnet := true }
  | verify (hi : i = .verifyResponses) :
      Effect s i ({ s with timeout := s.exp.map (· != 0) }.withResult
        (BitVec.ofNat 32 (owedCount s.exp)))
  | setExpected (c : DevClass) (k : Word) (e : BitVec 2) (hi : i = .setExpected c k e) :
      Effect s i { s with exp := s.exp.set c k.toNat e }
  | clearExpected (hi : i = .clearExpected) : Effect s i { s with exp := s.exp.map fun _ => 0 }
  | clearWarnings (hi : i = .clearWarnings) :
      Effect s i { s with
        subwarn := .const 0, unknownSubnet := false, devwarn := s.devwarn.map fun _ => 0 }

section
variable {s t : State} {i : Instr}

/-! ## The shared operations -/

theorem Effect.of_command {body : DWord → State → State} (h : command i s body = .next t)
    (hb : s.fatal = false → Effect s i (body (i.cmd s.cfg) s)) : Effect s i t := by
  obtain ⟨-, rfl⟩ | ⟨hf, -, rfl⟩ | ⟨hf, -, rfl⟩ := command_cases h
  · exact .refused
  · exact .fault _ hf
  · exact hb hf

theorem Effect.of_notACommand (h : notACommand (i.cmd s.cfg) s = .next t) : Effect s i t := by
  obtain ⟨-, rfl⟩ | ⟨hf, rfl⟩ := notACommand_cases h
  · exact .refused
  · exact .fault _ hf

theorem Effect.of_writeWords (hi : writesElements i = [.mem, .widx]) (hf : s.fatal = false)
    (b : BufId) (ws : List Word) : Effect s i (s.writeWords b ws (i.cmd s.cfg)) := by
  obtain ⟨-, h⟩ | ⟨room, h⟩ := s.writeWords_cases b ws (i.cmd s.cfg)
  · rw [h]; exact .fault _ hf
  · rw [h]; exact .write b ws s.draws hi room

theorem Effect.of_readResult (hi : writesElements i = [.ridx, .result]) (hf : s.fatal = false)
    (b : BufId) (n : Nat) (f : List Word → DWord) :
    Effect s i (s.readWords b n (i.cmd s.cfg) fun ws t => t.withResult (f ws)) := by
  obtain ⟨-, h⟩ | ⟨avail, h⟩ := s.readWords_cases b n (i.cmd s.cfg) fun ws t => t.withResult (f ws)
  · rw [h]; exact .fault _ hf
  · rw [h]; exact .readResult b n _ _ hi avail

theorem Effect.of_readString (hi : writesElements i = [.ridx, .rbytes]) (hf : s.fatal = false)
    (b : BufId) (n : Nat) (f : List Word → List Byte) :
    Effect s i (s.readWords b n (i.cmd s.cfg) fun ws t => { t with rbytes := f ws }) := by
  obtain ⟨-, h⟩ | ⟨avail, h⟩ := s.readWords_cases b n (i.cmd s.cfg)
    fun ws t => { t with rbytes := f ws }
  · rw [h]; exact .fault _ hf
  · rw [h]; exact .readString b n _ _ hi avail

/-- An operation with a bound on its operand: beyond it the fault, else its effect. -/
theorem Effect.of_bound (hf : s.fatal = false) {n : Nat} {u : State}
    (h : n ≤ s.cfg.capWords → Effect s i u) :
    Effect s i (if n > s.cfg.capWords then s.raise .bufferOverflow (i.cmd s.cfg) else u) := by
  split
  · exact .fault _ hf
  · exact h (by omega)

/-- WRITE_CRC stores two words after its draws (R128). -/
theorem Effect.of_writeCrc {b : BufId} (h : execWriteCrc b s = .next t) :
    Effect s (.writeCrc b) t := by
  refine .of_command h fun hf => .of_bound hf fun room => ?_
  have room' : (State.buf { s with draws := (s.frameBytes b).2 } b).widx.toNat + 2
      ≤ s.cfg.capWords := room
  rw [State.writeBytes, State.writeWords_of_room (by simpa [bytesCrc] using room')]
  exact .write b _ _ rfl (by simpa [bytesCrc] using room)

/-- PARSE by its buffer code (R180, R195). -/
theorem Effect.of_parse {code : BitVec 4} (h : execParse code s = .next t) :
    Effect s (.parse code) t := by
  refine .of_command h fun hf => ?_
  split
  · exact .parse code _ rfl hf
  · exact .unknownSubnet code rfl

/-! ## Every instruction -/

/-- What an instruction answers is one of the effects. -/
theorem exec_effect (h : exec i s = .next t) : Effect s i t := by
  cases i <;> dsimp only [exec] at h
  case writeU8 | writeU16 | writeU32 | writeFloat | writeString | writeWord | writeDelay
  | writeTrigger | markEndOfFrame | writeTimestamp =>
    exact .of_command h fun hf => .of_writeWords rfl hf _ _
  case writeCrc => exact .of_writeCrc h
  case markStartOfFrame => exact .of_command h fun _ => .frameStart _ rfl
  case readU8 | readU16 | readU32 | readFloat | readCrc | readWord =>
    exact .of_command h fun hf => .of_readResult rfl hf _ _ _
  case readString => exact .of_command h fun hf => .of_readString rfl hf _ _ _
  case setIndex => exact .of_command h fun hf => .of_bound hf (.setIndex _ _ _ rfl)
  case setLength => exact .of_command h fun hf => .of_bound hf (.setLength _ _ rfl)
  case clear => exact .of_command h fun _ => .clear _ rfl
  case getIndex | getLength | getExpected | readDevwarn | readTimeout | readRxts =>
    exact .of_command h fun _ => .result s.draws _ rfl
  case computeCrc16 => exact .of_command h fun hf => .of_bound hf fun _ => .result _ _ rfl
  case readStatus | readFaultcmd => cases h; exact .result s.draws _ rfl
  case txSend => exact .of_command h fun _ => .send _ rfl
  case parse => exact .of_parse h
  case verifyResponses => exact .of_command h fun _ => .verify rfl
  case setExpected => exact .of_command h fun _ => .setExpected _ _ _ rfl
  case clearExpected => exact .of_command h fun _ => .clearExpected rfl
  case clearWarnings => exact .of_command h fun _ => .clearWarnings rfl
  case txDataWord | txDelayWord | txTriggerWord | txEofWord | txTimestampWord | rxLengthWord
  | rxTimestampWord | rxDataWord => exact .of_notACommand h

end
end Sys2Proof.Machine
end

section
/-! The invariant of the block's state, kept by each of the state's operations, by PARSE, by every instruction
and so by every step (10_state.md R21 to R37, R42). -/

namespace Sys2Proof.Machine

open Sys2Proof

/-! ## Reset (R42, R260) -/

/-- A buffer after reset is in order, whatever its capacity. -/
theorem Buffer.reset_ok (cap : Nat) : Buffer.reset.Ok cap where
  mem := ⟨.nil, nofun⟩
  widx := Nat.zero_le _
  ridx := Nat.zero_le _
  len := Nat.zero_le _
  fstart := Nat.zero_le _

/-- Every buffer of a state after reset is the one of R42. -/
@[simp] theorem State.buf_resetWith (cfg : Config) (b : BufId) :
    (State.resetWith cfg).buf b = Buffer.reset := by
  obtain ⟨k, sn⟩ := b
  cases k <;> exact PerSubnet.get_const _ sn

theorem State.resetWith_inv {cfg : Config} (h : cfg.wf = true) : (State.resetWith cfg).Inv where
  cfg := h
  buf b := by rw [State.buf_resetWith]; exact Buffer.reset_ok _
  exp := DevFile.sized_const cfg _
  tel := DevFile.sized_const cfg _
  devwarn := DevFile.sized_const cfg _
  timeout := DevFile.sized_const cfg _
  rxts sn := by simp [State.resetWith]
  pstate := rfl
  noFault _ := ⟨rfl, rfl⟩
  fault := nofun

section
variable {sn : Subnet} {cmd : DWord} {s t : State} {i : Instr}

/-! ## The state's operations -/

/-- The invariant does not speak of the inputs, the draws, RESULT, RBYTES and the streams. -/
theorem State.Inv.withOutputs (h : s.Inv) (ins : List Input) (d : Nat) (v : DWord) (xs : List Byte)
    (out : PerSubnet (List Word)) :
    State.Inv { s with inputs := ins, draws := d, result := v, rbytes := xs, txout := out } :=
  { h with }

theorem State.Inv.withWarnings (h : s.Inv) (sw : PerSubnet (BitVec 4)) (us : Bool)
    {dw : DevFile (BitVec 6)} (hdw : dw.Sized s.cfg) :
    State.Inv { s with subwarn := sw, unknownSubnet := us, devwarn := dw } :=
  { h with devwarn := hdw }

theorem State.Inv.setBuf (h : s.Inv) (b : BufId) {x : Buffer} (hx : x.Ok s.cfg.capWords) :
    (s.setBuf b x).Inv where
  cfg := by simpa using h.cfg
  buf b' := by
    rw [State.setBuf_cfg]
    by_cases hb : b' = b
    · rw [hb, State.buf_setBuf_same]; exact hx
    · rw [State.buf_setBuf_other s x hb]; exact h.buf b'
  exp := by simpa using h.exp
  tel := by simpa using h.tel
  devwarn := by simpa using h.devwarn
  timeout := by simpa using h.timeout
  rxts := by simpa using h.rxts
  pstate := by simpa using h.pstate
  noFault := by simpa using h.noFault
  fault := by simpa using h.fault

/-- Fatal entry keeps the invariant (R233). -/
theorem State.Inv.raise (h : s.Inv) (c : Cause) (cmd : DWord) : (s.raise c cmd).Inv := by
  unfold State.raise
  split
  · exact { h with pstate := rfl }
  · exact { h with pstate := rfl, noFault := nofun, fault := fun _ => c.code_range }

/-! ## PARSE -/

/-- k timestamp words are 16·k bits (R34, R78). -/
theorem timestamp_lt (ws : List Word) : (timestamp ws).toNat < 2 ^ (16 * ws.length) := by
  match ws with
  | [] => simp [timestamp]
  | [w] =>
    have := w.isLt
    simpa [timestamp] using by omega
  | w :: w' :: ws =>
    refine (timestamp (w :: w' :: ws)).isLt.trans_le (Nat.pow_le_pow_right (by omega) ?_)
    simp only [List.length_cons]
    omega

/-- PSTATE apart, each of the parser's writes keeps the invariant. -/
theorem Touch.inv (ht : Touch sn s t) (h : (s.goto .idle).Inv) : (t.goto .idle).Inv := by
  cases ht with
  | goto | read | warnSubnet => exact { h with }
  | stamp ws hws =>
    refine { h with rxts := fun sn' => ?_ }
    by_cases hs : sn' = sn
    · rw [hs]
      simpa [State.goto, hws] using timestamp_lt ws
    · simpa [State.goto, hs] using h.rxts sn'
  | warnDevice c i w => exact { h with devwarn := h.devwarn.set c i _ }
  | credit c i e => exact { h with exp := h.exp.set c i e }
  | decode c i r => exact { h with tel := h.tel.set c i r }

theorem Touches.inv (ht : Touches sn s t) (h : (s.goto .idle).Inv) : (t.goto .idle).Inv := by
  induction ht with
  | refl => exact h
  | tail _ ht ih => exact ht.inv ih

theorem State.goto_of_pstate {q : PState} (h : s.pstate = q) : s.goto q = s := by
  subst h; rfl

/-- The committed read cursor, as a number. -/
theorem State.parsedBuf_ridx (s : State) (sn : Subnet) :
    (s.parsedBuf sn).ridx.toNat = max (s.rx.get sn).ridx.toNat (s.rx.get sn).len.toNat := by
  have := (s.rx.get sn).ridx.isLt
  have := (s.rx.get sn).len.isLt
  simp only [State.parsedBuf, BitVec.toNat_ofNat]
  omega

theorem State.parsedBuf_ok {cap : Nat} (h : (s.rx.get sn).Ok cap) : (s.parsedBuf sn).Ok cap where
  mem := h.mem
  widx := h.widx
  ridx := by rw [State.parsedBuf_ridx]; exact Nat.max_le.2 ⟨h.ridx, h.len⟩
  len := h.len
  fstart := h.fstart

/-- A parse that has ended keeps the invariant, PSTATE included. -/
theorem Ended.inv (he : Ended sn cmd s t) (h : s.Inv) : t.Inv := by
  have hs : (s.goto .idle).Inv := (State.goto_of_pstate h.pstate).symm ▸ h
  cases he with
  | classThree u _ _ hu => exact State.goto_raise u .idle .. ▸ (hu.inv hs).raise _ _
  | committed u hu =>
    have hok : (s.parsedBuf sn).Ok u.cfg.capWords :=
      hu.kept.cfg ▸ State.parsedBuf_ok (h.buf ⟨.rx, sn⟩)
    exact (hu.inv hs).setBuf ⟨.rx, sn⟩ hok

/-! ## Every instruction and every step -/

/-- A buffer in order, its write cursor moved past the words stored there (R120). -/
theorem Buffer.Ok.write {cap : Nat} {x : Buffer} (h : x.Ok cap) {ws : List Word}
    (room : x.widx.toNat + ws.length ≤ cap) :
    Buffer.Ok cap { x with
      mem := Memory.storeAll x.mem x.widx.toNat ws
      widx := BitVec.ofNat 16 (x.widx.toNat + ws.length) } :=
  { h with
    mem := Memory.wf_storeAll h.mem room
    widx := (Nat.mod_le _ _).trans room }

/-- A buffer in order, its read cursor moved within LEN_b (R160). -/
theorem Buffer.Ok.read {cap : Nat} {x : Buffer} (h : x.Ok cap) {n : Nat}
    (avail : x.ridx.toNat + n ≤ x.len.toNat) :
    Buffer.Ok cap { x with ridx := BitVec.ofNat 16 (x.ridx.toNat + n) } :=
  { h with ridx := (Nat.mod_le _ _).trans (avail.trans h.len) }

theorem Buffer.Ok.setCursor {cap : Nat} {x : Buffer} (h : x.Ok cap) (sel : Cursor) {v : Word}
    (hv : v.toNat ≤ cap) : (x.setCursor sel v).Ok cap := by
  cases sel with
  | write => exact { h with widx := hv }
  | read => exact { h with ridx := hv }

theorem Effect.inv (he : Effect s i t) (h : s.Inv) : t.Inv := by
  have hd : ∀ d, State.Inv { s with draws := d } := fun d => h.withOutputs _ d _ _ _
  cases he with
  | refused => exact h
  | fault c => exact h.raise c _
  | write b ws d _ room => exact (hd d).setBuf b ((h.buf b).write room)
  | readResult b n d v _ avail =>
    exact ((hd d).setBuf b ((h.buf b).read avail)).withOutputs _ _ v _ _
  | readString b n d xs _ avail =>
    exact ((hd d).setBuf b ((h.buf b).read avail)).withOutputs _ _ _ xs _
  | frameStart b => exact h.setBuf b { h.buf b with fstart := (h.buf b).widx }
  | setIndex b sel v _ hv => exact h.setBuf b ((h.buf b).setCursor sel hv)
  | setLength b v _ hv => exact h.setBuf b { h.buf b with len := hv }
  | clear b => exact h.setBuf b { Buffer.reset_ok _ with mem := (h.buf b).mem }
  | result d v => exact h.withOutputs _ d v _ _
  | send => exact h.withOutputs _ _ _ _ _
  | parse _ sn => exact (s.parse_ended sn _ (Config.one_le_hdrWords h.cfg)).inv h
  | unknownSubnet => exact h.withWarnings _ true h.devwarn
  | verify => exact { h with timeout := h.exp.map _ }
  | setExpected c k e => exact { h with exp := h.exp.set c _ e }
  | clearExpected => exact { h with exp := h.exp.map _ }
  | clearWarnings => exact h.withWarnings _ _ (h.devwarn.map _)

theorem State.resetInput_inv (h : s.cfg.wf = true) : s.resetInput.Inv :=
  (State.resetWith_inv h).withOutputs _ _ _ _ _

/-! ## The statements -/

/-- Settles O13: a step waits, resets, rejects a word, or runs an instruction, whose effect keeps the
invariant (`Effect.inv`). -/
theorem everyStepKeepsTheInvariant : Obligations.EveryStepKeepsTheInvariant := by
  intro s t h hs
  have hin : ∀ ins, State.Inv { s with inputs := ins } := fun ins => h.withOutputs ins _ _ _ _
  cases hx : s.inputs with
  | nil =>
    simp only [step, h.cfg, State.takeInput, hx, State.noInput, if_true] at hs
    split at hs
    · cases hs
    · cases hs; exact h
  | cons x rest =>
    cases x with
    | reset => rw [step_of_reset h.cfg hx] at hs; cases hs; exact State.resetInput_inv h.cfg
    | command c =>
      cases hd : decode c with
      | none =>
        rw [step_of_undecoded h.cfg hx hd] at hs
        obtain ⟨-, rfl⟩ | ⟨-, rfl⟩ := notACommand_cases hs
        · exact hin rest
        · exact (hin rest).raise _ _
      | some i =>
        rw [step_of_decoded h.cfg hx hd] at hs
        exact (exec_effect hs).inv (hin rest)

/-- Settles O12: REFCFG is one of the configurations the spec admits. -/
theorem resetMeetsTheInvariant : Obligations.ResetMeetsTheInvariant :=
  ⟨fun _ => State.resetWith_inv, State.resetWith_inv (by decide)⟩

/-- Settles O11, row by row of R42's table. -/
theorem resetInputRestoresResetValues : Obligations.ResetInputRestoresResetValues := by
  intro s rest hwf hin
  have hbuf : ∀ b, ({ s with inputs := rest } : State).resetInput.buf b = Buffer.reset :=
    State.buf_resetWith s.cfg
  refine ⟨_, step_of_reset hwf hin, rfl, rfl, rfl, fun b k => ?_, fun b => ?_, rfl, rfl,
    DevFile.file_const _ _, DevFile.file_const _ _, DevFile.file_const _ _, DevFile.file_const _ _,
    fun sn => ⟨PerSubnet.get_const _ sn, PerSubnet.get_const _ sn, PerSubnet.get_const _ sn⟩,
    rfl, rfl, rfl, rfl, rfl⟩
  · rw [State.word?, hbuf]; rfl
  · rw [hbuf]; exact ⟨rfl, rfl, rfl, rfl⟩

end
end Sys2Proof.Machine
end

section
/-! What an instruction leaves as it is: the elements R41 does not list under it, the fault registers but for
fatal entry, the streams but for TX_SEND, and the warnings that are set (10_state.md R30 to R41). -/

namespace Sys2Proof.Machine

open Sys2Proof

/-! ## Elements left as they are -/

/-- The part of a buffer that an element is, the same in x and y; other elements are no part of a buffer. -/
def Element.SameIn (x y : Buffer) : Element → Prop
  | .mem => ∀ k, Memory.word? y.mem k = Memory.word? x.mem k
  | .widx => y.widx = x.widx
  | .ridx => y.ridx = x.ridx
  | .len => y.len = x.len
  | .fstart => y.fstart = x.fstart
  | .result | .rbytes | .exp | .tel | .devwarn | .timeout | .subwarn | .rxts | .txout => True

section
variable {sn : Subnet} {cmd : DWord} {s t u : State} {i : Instr} {e : Element}

theorem Element.sameIn_refl (e : Element) (x : Buffer) : e.SameIn x x := by
  cases e <;> simp [Element.SameIn]

theorem Element.same_refl (e : Element) (s : State) : e.Same s s := by
  cases e <;> simp [Element.Same]

theorem Element.Same.trans (h : e.Same s t) (h' : e.Same t u) : e.Same s u := by
  cases e <;> simp_all [Element.Same]

/-- Replacing a buffer, some words drawn, leaves alone what the new buffer shares with the old one. -/
theorem Element.same_setBuf (d : Nat) {b : BufId} {x : Buffer} (h : e.SameIn (s.buf b) x) :
    e.Same s ({ s with draws := d }.setBuf b x) := by
  have hb : ∀ b', e.SameIn (s.buf b') (({ s with draws := d }.setBuf b x).buf b') := by
    intro b'
    by_cases hbb : b' = b
    · rw [hbb, State.buf_setBuf_same]; exact h
    · rw [State.buf_setBuf_other _ x hbb]; exact e.sameIn_refl _
  cases e with
  | mem | widx | ridx | len | fstart => exact hb
  | _ => simp [Element.Same]

theorem Element.Same.withResult (h : e.Same s t) (he : e ≠ .result) (v : DWord) :
    e.Same s (t.withResult v) := by
  cases e with
  | result => exact absurd rfl he
  | _ => exact h

theorem Element.Same.withRbytes (h : e.Same s t) (he : e ≠ .rbytes) (xs : List Byte) :
    e.Same s { t with rbytes := xs } := by
  cases e with
  | rbytes => exact absurd rfl he
  | _ => exact h

/-- Fatal entry writes no element of R41's table (R233). -/
theorem Element.same_raise (e : Element) (s : State) (c : Cause) (cmd : DWord) :
    e.Same s (s.raise c cmd) := by
  cases e <;> simp [Element.Same, State.word?]

/-- PSTATE is no element of R41's table. -/
theorem Element.Same.goto (h : e.Same s t) (q : PState) : e.Same s (t.goto q) := by
  cases e <;> exact h

/-- What the parser's writes leave alone. -/
theorem KeptByParser.same (h : KeptByParser s t) (he : e ∉ writesElements (.parse 0)) :
    e.Same s t := by
  have hb : ∀ b, t.buf b = s.buf b := fun b => by simp only [State.buf, h.tx, h.rx]
  cases e with
  | mem => exact fun b k => by rw [State.word?, State.word?, hb]
  | widx | len | fstart => exact fun b => by rw [hb]
  | result => exact h.result
  | rbytes => exact h.rbytes
  | timeout => exact h.timeout
  | txout => exact h.txout
  | ridx | exp | tel | devwarn | subwarn | rxts => simp [writesElements] at he

/-- What a parse that has ended leaves alone. -/
theorem Ended.same (h : Ended sn cmd s t) (he : e ∉ writesElements (.parse 0)) : e.Same s t := by
  cases h with
  | classThree u _ _ hu => exact (hu.kept.same he).trans (e.same_raise u _ _)
  | committed u hu =>
    have hx : e.SameIn (u.buf ⟨.rx, sn⟩) (s.parsedBuf sn) := by
      rw [State.buf_rx, hu.kept.rx]
      cases e <;> simp_all [Element.SameIn, State.parsedBuf, writesElements]
    exact ((hu.kept.same he).trans (Element.same_setBuf u.draws hx)).goto .idle

/-- Every effect leaves alone the elements that R41 does not list under its instruction. -/
theorem Effect.same (h : Effect s i t) (he : e ∉ writesElements i) : e.Same s t := by
  cases h with
  | refused => exact e.same_refl s
  | fault c => exact e.same_raise s c _
  | write b ws d hi room =>
    rw [hi] at he
    exact Element.same_setBuf d (by cases e <;> simp_all [Element.SameIn])
  | readResult b n d v hi =>
    rw [hi] at he
    exact (Element.same_setBuf d (by cases e <;> simp_all [Element.SameIn])).withResult
      (by rintro rfl; simp at he) v
  | readString b n d xs hi =>
    rw [hi] at he
    exact (Element.same_setBuf d (by cases e <;> simp_all [Element.SameIn])).withRbytes
      (by rintro rfl; simp at he) xs
  | frameStart b hi | clear b hi | setLength b v hi =>
    subst hi
    exact Element.same_setBuf s.draws (by cases e <;> simp_all [Element.SameIn, writesElements])
  | setIndex b sel v hi =>
    subst hi
    refine Element.same_setBuf s.draws ?_
    cases sel <;> cases e <;> simp_all [Element.SameIn, writesElements, Buffer.setCursor]
  | result d v hi =>
    rw [hi] at he
    exact ((e.same_refl s).withResult (by rintro rfl; simp at he) v)
  | parse code sn hi =>
    subst hi
    obtain hu | hu := s.parse_cases sn ((Instr.parse code).cmd s.cfg)
    · exact hu.kept.same he
    · exact hu.same he
  | send _ hi | unknownSubnet _ hi | verify hi | setExpected _ _ _ hi | clearExpected hi
  | clearWarnings hi =>
    subst hi
    cases e <;>
      simp_all [Element.Same, State.word?, State.buf, State.withResult, writesElements]

/-! ## The configuration, the inputs, the fault registers and PSTATE -/

/-- The fault registers are as in s, or the first fatal fault, at the command word cmd, has written them
(R233). -/
def FaultsFrom (cmd : DWord) (s t : State) : Prop :=
  (t.fatal = s.fatal ∧ t.fcause = s.fcause ∧ t.fcmd = s.fcmd) ∨
    (s.fatal = false ∧ t.fatal = true ∧ t.fcmd = cmd)

theorem faultsFrom_refl (cmd : DWord) (s : State) : FaultsFrom cmd s s := .inl ⟨rfl, rfl, rfl⟩

theorem State.raise_faultsFrom (s : State) (hf : s.fatal = false) (c : Cause) (cmd : DWord) :
    FaultsFrom cmd s (s.raise c cmd) := .inr ⟨hf, by simp, by rw [State.raise_of_safe hf]⟩

theorem KeptByParser.faultsFrom (h : KeptByParser s t) : FaultsFrom cmd s t :=
  .inl ⟨h.fatal, h.fcause, h.fcmd⟩

theorem Ended.faultsFrom (h : Ended sn cmd s t) (hf : s.fatal = false) : FaultsFrom cmd s t := by
  cases h with
  | classThree u _ _ hu =>
    have hu' : u.fatal = false := hu.kept.fatal.trans hf
    exact .inr ⟨hf, by simp, by rw [State.raise_of_safe hu']⟩
  | committed u hu => exact .inl ⟨hu.kept.fatal, hu.kept.fcause, hu.kept.fcmd⟩

theorem Ended.port (h : Ended sn cmd s t) : t.cfg = s.cfg ∧ t.inputs = s.inputs := by
  cases h with
  | classThree u _ _ hu => simp [hu.kept.cfg, hu.kept.inputs]
  | committed u hu => exact ⟨hu.kept.cfg, hu.kept.inputs⟩

/-- No instruction writes the configuration or the inputs. -/
theorem Effect.port (h : Effect s i t) : t.cfg = s.cfg ∧ t.inputs = s.inputs := by
  cases h with
  | parse _ sn =>
    obtain hu | he := s.parse_cases sn (i.cmd s.cfg)
    · exact ⟨hu.kept.cfg, hu.kept.inputs⟩
    · exact he.port
  | _ => simp [State.withResult]

/-- The fault registers change by fatal entry alone. -/
theorem Effect.faultsFrom (h : Effect s i t) : FaultsFrom (i.cmd s.cfg) s t := by
  cases h with
  | fault c hf => exact s.raise_faultsFrom hf c _
  | parse _ sn _ hf =>
    obtain hu | he := s.parse_cases sn (i.cmd s.cfg)
    · exact hu.kept.faultsFrom
    · exact he.faultsFrom hf
  | _ => simp [FaultsFrom, State.withResult]

/-- PSTATE ends as it was or in P_IDLE: PARSE ends, and fatal entry sets it back (R37, R233). -/
theorem Effect.pstate (h : Effect s i t) (hwf : s.cfg.wf = true) :
    t.pstate = s.pstate ∨ t.pstate = .idle := by
  cases h with
  | fault c => exact .inr (by simp)
  | parse _ sn => exact .inr (s.parse_ended sn _ (Config.one_le_hdrWords hwf)).pstate
  | _ => simp [State.withResult]

/-- Settles O57, by the effects of the instructions. -/
theorem onlyTheirCommandsWriteState : Obligations.OnlyTheirCommandsWriteState := by
  intro i s t hwf h
  have he := exec_effect h
  exact ⟨fun _ => he.same, he.port.1, he.port.2, he.faultsFrom, he.pstate hwf⟩

/-! ## The transmit streams (R38, R64) -/

/-- TX_SEND appends to the stream of its subnet. -/
theorem execTxSend_txout {sub : Subnet} (h : execTxSend sub s = .next t) (sn : Subnet) :
    ∃ ws, t.txout.get sn = s.txout.get sn ++ ws ∧ (sn ≠ sub → ws = []) := by
  obtain ⟨-, rfl⟩ | ⟨-, -, rfl⟩ | ⟨-, -, rfl⟩ := command_cases h
  · exact ⟨[], by simp⟩
  · exact ⟨[], by simp⟩
  · by_cases hs : sn = sub
    · exact ⟨(s.sentWords sub).1, by simp [hs]⟩
    · exact ⟨[], by simp [hs]⟩

/-- Only TX_SEND writes the streams (R41). -/
theorem txout_mem_writesElements (h : Element.txout ∈ writesElements i) : ∃ sub, i = .txSend sub := by
  cases i with
  | txSend sub => exact ⟨sub, rfl⟩
  | setIndex _ sel _ => cases sel <;> simp [writesElements] at h
  | _ => simp [writesElements] at h

theorem exec_txout (h : exec i s = .next t) (sn : Subnet) :
    ∃ ws, t.txout.get sn = s.txout.get sn ++ ws ∧ (i ≠ .txSend sn → ws = []) := by
  by_cases hi : Element.txout ∈ writesElements i
  · obtain ⟨sub, rfl⟩ := txout_mem_writesElements hi
    obtain ⟨ws, happend, hother⟩ := execTxSend_txout h sn
    exact ⟨ws, happend, fun hne => hother (by rintro rfl; exact hne rfl)⟩
  · have hsame : t.txout = s.txout := (exec_effect h).same hi
    exact ⟨[], by simp [hsame]⟩

/-- Settles O39: a word that is no command leaves the streams, and of the instructions only TX_SEND appends. -/
theorem transmitStreamsOnlyGrow : Obligations.TransmitStreamsOnlyGrow := by
  intro s t c rest hin hs sn
  have hwf : s.cfg.wf = true := by
    by_contra hwf
    rw [step_of_inadmissible (by simpa using hwf)] at hs
    cases hs
  cases hd : decode c with
  | none =>
    rw [step_of_undecoded hwf hin hd] at hs
    refine ⟨[], ?_, fun _ => rfl⟩
    obtain ⟨-, rfl⟩ | ⟨-, rfl⟩ := notACommand_cases hs <;> simp
  | some i =>
    rw [step_of_decoded hwf hin hd] at hs
    obtain ⟨ws, happend, hother⟩ := exec_txout hs sn
    exact ⟨ws, happend, fun hne => hother fun e => hne (by rw [e])⟩

/-! ## Warnings (R30, R32, R33) -/

/-- Every warning bit set in s is set in t. -/
structure WarningsKept (s t : State) : Prop where
  subwarn : ∀ sn, s.subwarn.get sn &&& t.subwarn.get sn = s.subwarn.get sn
  devwarn : ∀ c j, s.devwarn.get c j 0 &&& t.devwarn.get c j 0 = s.devwarn.get c j 0
  unknownSubnet : s.unknownSubnet = true → t.unknownSubnet = true

theorem WarningsKept.of_eq (hs : t.subwarn = s.subwarn) (hd : t.devwarn = s.devwarn)
    (hu : s.unknownSubnet = true → t.unknownSubnet = true) : WarningsKept s t :=
  ⟨fun sn => by simp [hs], fun c j => by simp [hd], hu⟩

/-- The bits of x stay in z if they stay in y and those of y stay in z. -/
theorem bits_kept_trans {n : Nat} {x y z : BitVec n} (h : x &&& y = x) (h' : y &&& z = y) :
    x &&& z = x := by
  rw [← h, BitVec.and_assoc, h']

theorem bits_kept_or {n : Nat} (x m : BitVec n) : x &&& (x ||| m) = x := by
  ext k; simp +contextual

theorem WarningsKept.trans (h : WarningsKept s t) (h' : WarningsKept t u) : WarningsKept s u :=
  ⟨fun sn => bits_kept_trans (h.subwarn sn) (h'.subwarn sn),
    fun c j => bits_kept_trans (h.devwarn c j) (h'.devwarn c j),
    fun hs => h'.unknownSubnet (h.unknownSubnet hs)⟩

theorem State.warnSubnet_kept (s : State) (sn : Subnet) (w : SubWarning) :
    WarningsKept s (s.warnSubnet sn w) where
  subwarn sn' := by
    by_cases hs : sn' = sn
    · rw [hs, State.warnSubnet_get_same, bits_kept_or]
    · rw [State.warnSubnet_get_other s w hs, BitVec.and_self]
  devwarn _ _ := BitVec.and_self
  unknownSubnet := id

/-- Setting an entry beyond the array changes nothing. -/
theorem DevFile.set_of_length_le {α : Type} (f : DevFile α) {c : DevClass} {k : Nat} (a : α)
    (h : (f.file c).length ≤ k) : f.set c k a = f := by
  cases c <;> simp_all [DevFile.set, DevFile.file, List.set_eq_of_length_le]

theorem State.warnDevice_kept (s : State) (c : DevClass) (k : Nat) (w : DevWarning) :
    WarningsKept s (s.warnDevice c k w) where
  subwarn _ := BitVec.and_self
  devwarn c' j := by
    rw [State.warnDevice]
    by_cases hk : k < (s.devwarn.file c).length
    · by_cases hcj : c' = c ∧ j = k
      · rw [hcj.1, hcj.2, DevFile.get_set_same _ _ _ hk, bits_kept_or]
      · rw [DevFile.get_set_other _ _ _ hcj, BitVec.and_self]
    · rw [DevFile.set_of_length_le _ _ (Nat.le_of_not_lt hk), BitVec.and_self]
  unknownSubnet := id

theorem Touch.warningsKept (h : Touch sn s t) : WarningsKept s t := by
  cases h with
  | warnSubnet w => exact s.warnSubnet_kept sn w
  | warnDevice c k w => exact s.warnDevice_kept c k w
  | goto | read | stamp | credit | decode => exact .of_eq rfl rfl id

theorem Touches.warningsKept (h : Touches sn s t) : WarningsKept s t := by
  induction h with
  | refl => exact .of_eq rfl rfl id
  | tail _ h ih => exact ih.trans h.warningsKept

theorem Ended.warningsKept (h : Ended sn cmd s t) : WarningsKept s t := by
  cases h with
  | classThree u _ _ hu => exact hu.warningsKept.trans (.of_eq (by simp) (by simp) (by simp))
  | committed u hu => exact hu.warningsKept.trans (.of_eq rfl rfl id)

theorem Effect.warningsKept (h : Effect s i t) (hi : i ≠ .clearWarnings) : WarningsKept s t := by
  cases h with
  | clearWarnings h => exact absurd h hi
  | parse _ sn =>
    obtain hu | he := s.parse_cases sn (i.cmd s.cfg)
    · exact hu.warningsKept
    · exact he.warningsKept
  | _ => refine .of_eq ?_ ?_ ?_ <;> simp [State.withResult]

/-- Settles O56: PARSE only sets warning bits, and the other instructions but CLEAR_WARNINGS leave them. -/
theorem warningsAreSticky : Obligations.WarningsAreSticky := by
  intro s t i hi h
  obtain ⟨hsub, hdev, hunknown⟩ := (exec_effect h).warningsKept hi
  exact ⟨hsub, hdev, hunknown⟩

end
end Sys2Proof.Machine
end

section
/-! READ_STATUS: the STATUS view bit for bit (10_state.md R36, R201). -/

namespace Sys2Proof.Machine

open Sys2Proof

/-- A bit field of a concatenation that lies in its high part. -/
theorem extract_above {m n : Nat} (x : BitVec m) (y : BitVec n) (k len : Nat) :
    (x ++ y).extractLsb' (n + k) len = x.extractLsb' k len := by
  rw [BitVec.extractLsb'_append_eq_of_le (Nat.le_add_right n k), Nat.add_sub_cancel_left]

/-- The low part of a concatenation. -/
theorem extract_low {m n : Nat} (x : BitVec m) (y : BitVec n) :
    (x ++ y).extractLsb' 0 n = y := by
  rw [BitVec.extractLsb'_append_eq_of_add_le (Nat.zero_add n).le, BitVec.extractLsb'_eq_self]

/-- The middle part of a concatenation. -/
theorem extract_middle {m n l : Nat} (x : BitVec m) (y : BitVec n) (z : BitVec l) :
    (x ++ y ++ z).extractLsb' l n = y :=
  (extract_above (x ++ y) z 0 n).trans (extract_low x y)

/-- STATUS from bit 12 on is the five SUBWARN values (R36). -/
theorem State.status_subwarn (s : State) (k len : Nat) :
    s.status.extractLsb' (1 + (3 + (4 + (1 + (3 + k))))) len =
      (s.subwarn.s5 ++ s.subwarn.s4 ++ s.subwarn.s3 ++ s.subwarn.s2 ++ s.subwarn.s1).extractLsb'
        k len :=
  calc s.status.extractLsb' (1 + (3 + (4 + (1 + (3 + k))))) len
    _ = _ := extract_above _ (BitVec.ofBool s.fatal) _ _
    _ = _ := extract_above _ 0#3 _ _
    _ = _ := extract_above _ s.fcause _ _
    _ = _ := extract_above _ (BitVec.ofBool s.unknownSubnet) _ _
    _ = _ := extract_above _ 0#3 _ _

/-- UNKNOWN_SUBNET as the one bit of STATUS above FCAUSE (R36). -/
theorem State.status_unknownSubnet (s : State) :
    s.status.extractLsb' 8 1 = BitVec.ofBool s.unknownSubnet :=
  calc s.status.extractLsb' 8 1
    _ = _ := extract_above _ (BitVec.ofBool s.fatal) 7 1
    _ = _ := extract_above _ 0#3 4 1
    _ = _ := extract_middle _ (BitVec.ofBool s.unknownSubnet) s.fcause

/-- Bits 11:9 of STATUS are 0 (R36). -/
theorem State.status_reserved (s : State) : s.status.extractLsb' 9 3 = 0 :=
  calc s.status.extractLsb' 9 3
    _ = _ := extract_above _ (BitVec.ofBool s.fatal) 8 3
    _ = _ := extract_above _ 0#3 5 3
    _ = _ := extract_above _ s.fcause 1 3
    _ = _ := extract_middle _ 0#3 (BitVec.ofBool s.unknownSubnet)

theorem getLsbD_of_extract {n k : Nat} {x : BitVec n} {b : Bool}
    (h : x.extractLsb' k 1 = BitVec.ofBool b) : x.getLsbD k = b := by
  have h0 : (x.extractLsb' k 1).getLsbD 0 = x.getLsbD k := by simp
  rw [← h0, h]
  cases b <;> rfl

/-- Settles O53: each field of STATUS is read back from the concatenation of R36. -/
theorem statusReadShowsTheFlags : Obligations.StatusReadShowsTheFlags := by
  intro s
  refine ⟨s.status, rfl, getLsbD_of_extract (extract_low _ (BitVec.ofBool s.fatal)),
    extract_middle _ 0#3 (BitVec.ofBool s.fatal), ?_, getLsbD_of_extract s.status_unknownSubnet,
    s.status_reserved, ?_, ?_, ?_, ?_, ?_⟩
  · exact (extract_above _ (BitVec.ofBool s.fatal) 3 4).trans (extract_middle _ s.fcause 0#3)
  · exact (s.status_subwarn 0 4).trans (extract_low _ s.subwarn.s1)
  · exact (s.status_subwarn 4 4).trans (extract_middle _ s.subwarn.s2 s.subwarn.s1)
  · exact (s.status_subwarn 8 4).trans <| (extract_above _ s.subwarn.s1 4 4).trans
      (extract_middle _ s.subwarn.s3 s.subwarn.s2)
  · exact (s.status_subwarn 12 4).trans <| (extract_above _ s.subwarn.s1 8 4).trans <|
      (extract_above _ s.subwarn.s2 4 4).trans (extract_middle _ s.subwarn.s4 s.subwarn.s3)
  · exact (s.status_subwarn 16 4).trans <| (extract_above _ s.subwarn.s1 12 4).trans <|
      (extract_above _ s.subwarn.s2 8 4).trans <| (extract_above _ s.subwarn.s3 4 4).trans <|
      (extract_above s.subwarn.s5 s.subwarn.s4 0 4).trans BitVec.extractLsb'_eq_self

end Sys2Proof.Machine
end

section
/-! PARSE of a receive buffer: where it leaves the read cursor, and one exception response
(43_response_parser.md R180 to R196). -/

namespace Sys2Proof.Machine

open Sys2Proof

section
variable {s t : State} {sn : Subnet} {cmd : DWord} {code : BitVec 4}

/-! ## The command -/

/-- PARSE's arm of the dispatch. -/
theorem exec_parse_arm (code : BitVec 4) (s : State) :
    exec (.parse code) s = execParse code s := rfl

/-- Outside the fatal state PARSE of a receive buffer runs the FSM over it (R180). -/
theorem exec_parse (hf : s.fatal = false) (hsn : rxOfCode code = some sn) :
    exec (.parse code) s = .next (s.parse sn ((Instr.parse code).cmd s.cfg)) := by
  rw [exec_parse_arm, execParse, command_of_legal hf rfl, hsn]

/-- In the fatal state PARSE is refused (R234). -/
theorem exec_parse_of_fatal (hf : s.fatal = true) : exec (.parse code) s = .next s := by
  rw [exec_parse_arm, execParse, command_of_fatal hf]

/-- A parse of a buffer with nothing left to parse changes nothing (R194). -/
theorem State.parse_of_consumed (hp : s.pstate = .idle)
    (hc : (s.rx.get sn).len.toNat ≤ (s.rx.get sn).ridx.toNat) : s.parse sn cmd = s := by
  have hfuel : parseFuel (parseStart sn s).1 = 1 + 2 := by
    simp only [parseFuel, parseStart]
    omega
  have hbuf : { s.rx.get sn with ridx := BitVec.ofNat 16 (parseStart sn s).1.p } =
      s.buf ⟨.rx, sn⟩ := by simp [parseStart]
  rw [State.parse, hfuel]
  show (parseRun sn cmd (1 + 2) ((parseStart sn s).1, s.goto .header)).2 = s
  rw [parseRun_done sn cmd (parseStart sn s).1 s hc, hbuf, State.setBuf_buf,
    State.goto_of_pstate hp]

/-! ## The read cursor -/

/-- Outside the fatal state a parse either takes the class-code-3 fault, with the buffers as they were, or
commits the read cursor. -/
theorem Ended.rx_cases (h : Ended sn cmd s t) (hf : s.fatal = false) :
    (t.fatal = true ∧ t.rx = s.rx ∧ ∃ a i, Config.device? s.cfg sn a = some (none, i)) ∨
    (t.fatal = false ∧ t.rx = s.rx.set sn (s.parsedBuf sn)) := by
  cases h with
  | classThree u a i hu ha => exact .inl ⟨by simp, by simp [hu.kept.rx], a, i, ha⟩
  | committed u hu =>
    refine .inr ⟨hu.kept.fatal.trans hf, ?_⟩
    show u.rx.set sn _ = _
    rw [hu.kept.rx]

/-- Settles O41, by the two ends of a parse; after the commit nothing is left to parse. -/
theorem parseCommitsTheReadCursor : Obligations.ParseCommitsTheReadCursor := by
  intro s code sn hwf hf hsn
  have he := s.parse_ended sn ((Instr.parse code).cmd s.cfg) (Config.one_le_hdrWords hwf)
  refine ⟨_, exec_parse hf hsn, he.pstate, ?_⟩
  generalize s.parse sn ((Instr.parse code).cmd s.cfg) = t at he
  obtain ⟨ht, hrx, a, i, ha⟩ | ⟨ht, hrx⟩ := he.rx_cases hf
  · refine ⟨fun hnone => absurd ha (hnone a i), by rw [hrx], ?_, fun _ => hrx,
      exec_parse_of_fatal ht⟩
    simp [ht]
  · have hget : t.rx.get sn = s.parsedBuf sn := by rw [hrx, PerSubnet.get_set_same]
    have hridx : (t.rx.get sn).ridx.toNat =
        max (s.rx.get sn).ridx.toNat (s.rx.get sn).len.toNat := by
      rw [hget, State.parsedBuf_ridx]
    have hlen : (t.rx.get sn).len = (s.rx.get sn).len := by rw [hget]; rfl
    refine ⟨fun _ => ht, by rw [hget]; rfl, fun _ => hridx, by simp [ht], ?_⟩
    rw [exec_parse ht hsn, State.parse_of_consumed he.pstate]
    rw [hridx, hlen]
    exact Nat.le_max_right _ _

/-! ## One record -/

/-- A parse of one whole record that is no class-code-3 device's: its timestamp, its row of R196, and the
cursor at the end (R182, R193). -/
theorem State.parse_record {ws : List Word} {xs : List Byte} (h1 : 1 ≤ s.cfg.hdrWords)
    (h : RxHolds s sn [(ws, xs)] []) (ho : frameOutcome s.cfg sn xs ≠ .classThree) :
    s.parse sn cmd =
      let u := applyOutcome sn cmd xs (noteTimestamp sn ws s) (frameOutcome s.cfg sn xs)
      (u.setBuf ⟨.rx, sn⟩ { u.rx.get sn with ridx := (s.rx.get sn).len }).goto .idle := by
  have hrec : IsRecord s.cfg ws xs := h.isRecord (ws, xs) (by simp)
  have hend : (s.rx.get sn).len.toNat = (s.rx.get sn).ridx.toNat + ws.length := by
    simpa using h.length
  have hws : 1 ≤ ws.length := by have := hrec.length; omega
  obtain ⟨v', m, hm, hp, hn, hrun⟩ := parseRun_record sn cmd (parseStart sn s).1 s h1 hrec
    (Nat.le_of_eq hend.symm) (by simpa [State.Holds, State.word?, parseStart] using h.words)
  have hfuel : parseFuel (parseStart sn s).1 = (5 * ws.length + 1 - m + 2) + m := by
    simp only [parseFuel, parseStart]
    omega
  have hdone : v'.n ≤ v'.p := by rw [hp, hn]; exact Nat.le_of_eq hend
  have hridx : BitVec.ofNat 16 v'.p = (s.rx.get sn).len := by
    rw [hp]
    show BitVec.ofNat 16 ((s.rx.get sn).ridx.toNat + ws.length) = _
    rw [← hend, BitVec.ofNat_toNat, BitVec.setWidth_eq]
  rw [State.parse, hfuel]
  show (parseRun sn cmd _ ((parseStart sn s).1, s.goto .header)).2 = _
  rw [hrun, if_neg ho, parseRun_done sn cmd v' _ hdone, hridx]

/-! ## Exception responses (R188) -/

/-- A device of the map has an index below its class's count (R12). -/
theorem Config.device?_lt {cfg : Config} (h : cfg.wf = true) {a : Byte} {c : DevClass} {i : Nat}
    (ha : Config.device? cfg sn a = some (some c, i)) : i < cfg.count c := by
  have hall : ∀ e ∈ cfg.dmap, cfg.entryOk e = true := by
    simp only [Config.wf, Config.dmapOk, Bool.and_eq_true, List.all_eq_true] at h
    obtain ⟨⟨-, hdmap, -⟩, -⟩ := h
    exact hdmap
  obtain ⟨e, hfind, he⟩ := Option.map_eq_some_iff.1 ha
  have hok := hall e (List.mem_of_find?_eq_some hfind)
  simp only [Prod.mk.injEq] at he
  simpa [Config.entryOk, he.1, he.2] using hok

/-- The frame of an exception response has row 8 of R196. -/
theorem frameOutcome_exception {cfg : Config} {a fc ec lo hi : Byte} {c : DevClass} {i : Nat}
    (hcrc : crc16 [a, fc, ec] = hi ++ lo) (ha : Config.device? cfg sn a = some (some c, i))
    (hfc : 128 ≤ fc.toNat) :
    frameOutcome cfg sn [a, fc, ec, lo, hi] =
      .exceptionResponse c i (Config.excWarning cfg ec) := by
  have hok : crcOk [a, fc, ec, lo, hi] = true := by simp [crcOk, u16le, hcrc]
  simp [frameOutcome, hok, ha, hfc]

/-- A header changes RXTS alone (R182). -/
theorem noteTimestamp_eq (sn : Subnet) (ws : List Word) (s : State) :
    noteTimestamp sn ws s = { s with rxts := (noteTimestamp sn ws s).rxts } := by
  unfold noteTimestamp
  split <;> rfl

theorem noteTimestamp_rxts_one {ws : List Word} (h : s.cfg.hdrWords = 1) :
    (noteTimestamp sn ws s).rxts = s.rxts := by
  simp [noteTimestamp, h]

/-- One timestamp word is the timestamp (R78). -/
theorem noteTimestamp_rxts_two {ws : List Word} {w1 : Word} (h : s.cfg.hdrWords = 2)
    (hw : ws[1]? = some w1) :
    (noteTimestamp sn ws s).rxts = s.rxts.set sn (w1.setWidth 32) := by
  obtain ⟨w0, w1, ws, rfl⟩ : ∃ a b l, ws = a :: b :: l := by
    rcases ws with _ | ⟨a, _ | ⟨b, l⟩⟩ <;> simp_all
  simp_all [noteTimestamp, timestamp]

theorem append_eq_shiftLeft_or (a b : Word) :
    (a ++ b : DWord) = a.setWidth 32 <<< 16 ||| b.setWidth 32 := by
  ext k hk
  simp
  grind

/-- Of two timestamp words the first is the most significant (R78). -/
theorem noteTimestamp_rxts_three {ws : List Word} {w1 w2 : Word} (h : s.cfg.hdrWords = 3)
    (hw1 : ws[1]? = some w1) (hw2 : ws[2]? = some w2) :
    (noteTimestamp sn ws s).rxts = s.rxts.set sn (w1 ++ w2) := by
  obtain ⟨w0, w1, w2, ws, rfl⟩ : ∃ a b c l, ws = a :: b :: c :: l := by
    rcases ws with _ | ⟨a, _ | ⟨b, _ | ⟨c, l⟩⟩⟩ <;> simp_all
  simp_all [noteTimestamp, timestamp, append_eq_shiftLeft_or]

/-- Crediting a device with a response outstanding (R192). -/
theorem State.account_of_owed {c : DevClass} {i : Nat} (h : s.exp.get c i 0 ≠ 0) :
    s.account c i = { s with exp := s.exp.set c i (s.exp.get c i 0 - 1) } := by
  rw [State.account, if_neg h]

/-- Crediting a device with none outstanding (R192). -/
theorem State.account_of_unexpected {c : DevClass} {i : Nat} (h : s.exp.get c i 0 = 0) :
    s.account c i = { s with devwarn := s.devwarn.set c i (s.devwarn.get c i 0 ||| 0x20) } := by
  rw [State.account, if_pos h]
  rfl

theorem DevFile.set_set {α : Type} (f : DevFile α) (c : DevClass) (i : Nat) (a b : α) :
    (f.set c i a).set c i b = f.set c i b := by
  cases c <;> simp [DevFile.set]

/-- An exception warning followed by the credit for it, as one change (R188, R192). -/
theorem State.account_warnDevice {c : DevClass} {i : Nat} (hi : i < (s.devwarn.file c).length)
    (w : DevWarning) :
    (s.exp.get c i 0 ≠ 0 ∧ (s.warnDevice c i w).account c i =
      { s with
        exp := s.exp.set c i (s.exp.get c i 0 - 1)
        devwarn := s.devwarn.set c i (s.devwarn.get c i 0 ||| w.mask) }) ∨
    (s.exp.get c i 0 = 0 ∧ (s.warnDevice c i w).account c i =
      { s with
        devwarn := s.devwarn.set c i (s.devwarn.get c i 0 ||| w.mask ||| 0x20) }) := by
  by_cases h : s.exp.get c i 0 = 0
  · refine .inr ⟨h, ?_⟩
    rw [State.account_of_unexpected (s := s.warnDevice c i w) h]
    simp only [State.warnDevice, DevFile.get_set_same _ _ _ hi, DevFile.set_set]
  · exact .inl ⟨h, State.account_of_owed (s := s.warnDevice c i w) h⟩

/-- What a parse of one exception response leaves: one warning, one credit, the timestamp and the cursor. -/
theorem State.parse_exception {ws : List Word} {a fc ec lo hi : Byte} {c : DevClass} {i : Nat}
    (hinv : s.Inv) (hrx : RxHolds s sn [(ws, [a, fc, ec, lo, hi])] [])
    (hcrc : crc16 [a, fc, ec] = hi ++ lo) (ha : Config.device? s.cfg sn a = some (some c, i))
    (hfc : 128 ≤ fc.toNat) :
    ∃ e d, s.parse sn cmd =
        { s with
          exp := e, devwarn := d, rxts := (noteTimestamp sn ws s).rxts
          rx := s.rx.set sn { s.rx.get sn with ridx := (s.rx.get sn).len } } ∧
      (s.exp.get c i 0 ≠ 0 → e = s.exp.set c i (s.exp.get c i 0 - 1) ∧
        d = s.devwarn.set c i (s.devwarn.get c i 0 ||| (Config.excWarning s.cfg ec).mask)) ∧
      (s.exp.get c i 0 = 0 → e = s.exp ∧
        d = s.devwarn.set c i
          (s.devwarn.get c i 0 ||| (Config.excWarning s.cfg ec).mask ||| 0x20)) := by
  have ho := frameOutcome_exception (lo := lo) hcrc ha hfc
  have hi : i < (s.devwarn.file c).length := by
    rw [hinv.devwarn c]; exact Config.device?_lt hinv.cfg ha
  have hidle := hinv.pstate
  rw [State.parse_record (Config.one_le_hdrWords hinv.cfg) hrx (by simp [ho]), ho]
  simp only [applyOutcome]
  rw [noteTimestamp_eq]
  obtain ⟨h0, hrow⟩ | ⟨h0, hrow⟩ := State.account_warnDevice
    (s := { s with rxts := (noteTimestamp sn ws s).rxts }) hi (Config.excWarning s.cfg ec)
  · refine ⟨_, _, ?_, fun _ => ⟨rfl, rfl⟩, fun h => absurd h h0⟩
    rw [hrow]
    simp [State.goto, State.setBuf, hidle]
  · refine ⟨_, _, ?_, fun h => absurd h0 h, fun _ => ⟨rfl, rfl⟩⟩
    rw [hrow]
    simp [State.goto, State.setBuf, hidle]

/-- Settles O45: the record has row 8 of R196, one warning and one credit (`State.parse_exception`). -/
theorem exceptionResponseSetsItsWarning : Obligations.ExceptionResponseSetsItsWarning := by
  intro s code sn ws a fc ec lo hi c i hinv hf hsn hrx hcrc ha hfc
  obtain ⟨e, d, hparse, howed, hunexpected⟩ := State.parse_exception
    (cmd := (Instr.parse code).cmd s.cfg) hinv hrx hcrc ha hfc
  refine ⟨_, exec_parse hf hsn, ?_⟩
  rw [hparse]
  refine ⟨rfl, rfl, fun w hw => ?_, noteTimestamp_rxts_one, fun _ => noteTimestamp_rxts_two,
    fun _ _ => noteTimestamp_rxts_three, rfl, rfl⟩
  have hmask : (Config.excWarning s.cfg ec).mask = w := by
    rw [hw, Config.excWarning]
    cases Config.exception? s.cfg ec with
    | none => rfl
    | some k => cases k <;> rfl
  rw [← hmask]
  exact ⟨howed, hunexpected⟩

end
end Sys2Proof.Machine
end

section
/-! Reads of words that may be unwritten, and the commands that hand on raw words: READ_WORD and TX_SEND
(20_memory.md R53, R65, 42_frame_decoder.md R167, R168). -/

namespace Sys2Proof.Machine

open Sys2Proof

/-! ## The draws of a read of consecutive words (R65) -/

/-- How many of the words i .. i+n−1 are unwritten. -/
def Memory.unwrittenCount (m : Memory) (i n : Nat) : Nat :=
  (List.range n).countP fun k => (Memory.word? m (i + k)).isNone

@[simp] theorem Memory.unwrittenCount_zero (m : Memory) (i : Nat) :
    Memory.unwrittenCount m i 0 = 0 := rfl

theorem Memory.unwrittenCount_succ (m : Memory) (i n : Nat) :
    Memory.unwrittenCount m i (n + 1) =
      Memory.unwrittenCount m (i + 1) n + if (Memory.word? m i).isNone then 1 else 0 := by
  have hshift : ((fun k => (Memory.word? m (i + k)).isNone) ∘ Nat.succ) =
      fun k => (Memory.word? m (i + 1 + k)).isNone := by
    funext k
    rw [Function.comp_apply, Nat.succ_eq_add_one, Nat.add_comm k 1, Nat.add_assoc]
  rw [Memory.unwrittenCount, List.range_succ_eq_map, List.countP_cons, List.countP_map, hshift]
  rfl

theorem Memory.read_of_unwritten {m : Memory} {i : Nat} (h : Memory.word? m i = none) (d : Nat) :
    Memory.read m i d = (Config.freeWord d, d + 1) := by simp [Memory.read, h]

theorem Memory.read_draws (m : Memory) (i d : Nat) :
    (Memory.read m i d).2 = d + if (Memory.word? m i).isNone then 1 else 0 := by
  cases h : Memory.word? m i with
  | none => simp [Memory.read_of_unwritten h]
  | some w => simp [Memory.read_of_written h]

/-- A read draws once for each unwritten word. -/
theorem Memory.readAll_draws (m : Memory) (i n d : Nat) :
    (Memory.readAll m i n d).2 = d + Memory.unwrittenCount m i n := by
  induction n generalizing i d with
  | zero => rfl
  | succ n ih =>
    simp only [Memory.readAll, ih, Memory.read_draws, Memory.unwrittenCount_succ]
    omega

/-- The k-th word of a read is the word at i + k, read after the draws of the words before it. -/
theorem Memory.readAll_getElem? (m : Memory) (i d : Nat) {n k : Nat} (hk : k < n) :
    (Memory.readAll m i n d).1[k]? =
      some (Memory.read m (i + k) (d + Memory.unwrittenCount m i k)).1 := by
  induction n generalizing i d k with
  | zero => omega
  | succ n ih =>
    cases k with
    | zero => rfl
    | succ k =>
      have hdraws : (Memory.read m i d).2 + Memory.unwrittenCount m (i + 1) k =
          d + Memory.unwrittenCount m i (k + 1) := by
        rw [Memory.read_draws, Memory.unwrittenCount_succ]
        omega
      rw [← hdraws, show i + (k + 1) = i + 1 + k by omega]
      exact ih (i + 1) _ (by omega)

/-- Settles O36: the k-th word is read after the draws of the unwritten words before it
(`Memory.readAll_getElem?`). -/
theorem unwrittenWordsAreFreshDraws : Obligations.UnwrittenWordsAreFreshDraws := by
  intro m i n d
  refine ⟨Memory.readAll_length m i n d, Memory.readAll_draws m i n d, fun k hk => ?_⟩
  rw [Memory.readAll_getElem? m i d hk]
  refine ⟨fun v hv => ?_, fun hnone => ?_⟩
  · rw [Memory.read_of_written hv]
  · rw [Memory.read_of_unwritten hnone]
    rfl

/-! ## READ_WORD (R167) -/

/-- The cursor after a read within a length does not wrap. -/
theorem toNat_ofNat_of_le {n : Nat} {v : Word} (h : n ≤ v.toNat) : (BitVec.ofNat 16 n).toNat = n := by
  simp; omega

/-- READ_WORD within LEN_b reads the word at the cursor and advances it. -/
theorem exec_readWord {s : State} {b : BufId} (hf : s.fatal = false)
    (avail : (s.buf b).ridx.toNat + 1 ≤ (s.buf b).len.toNat) :
    exec (.readWord b) s = .next
      (({ s with draws := (Memory.read (s.buf b).mem (s.buf b).ridx.toNat s.draws).2 }.setBuf b
        { s.buf b with ridx := BitVec.ofNat 16 ((s.buf b).ridx.toNat + 1) }).withResult
          ((Memory.read (s.buf b).mem (s.buf b).ridx.toNat s.draws).1.setWidth 32)) := by
  rw [exec, execReadWord, command_of_legal hf rfl, State.readWords_of_avail avail]
  rfl

/-- Settles O34: READ_WORD is `Memory.read` at the cursor, of a written or an unwritten word. -/
theorem rawWordReadReturnsTheWord : Obligations.RawWordReadReturnsTheWord := by
  intro s b hf avail
  refine ⟨_, _, exec_readWord hf avail, fun v hv => ?_, fun hnone => ?_, ?_, ?_, fun b' hb => ?_, ?_⟩
  · simp [Memory.read_of_written hv]
  · simp [Memory.read_of_unwritten hnone]
  · simp
  · simp [toNat_ofNat_of_le avail]
  · simp [hb]
  · rw [State.setBuf_draws]
    exact State.setBuf_sameButBuffers _ b _

/-! ## TX_SEND (R168) -/

/-- The decoder's arm of op 0x30 (R79). -/
theorem decode_of_op_txSend {c : Transaction} (h : c.op = 0x30) :
    decode c = if c.bytes = [] ∧ c.sub = 0 ∧ c.imm = 0 then (txOfCode c.buf).map .txSend else none := by
  by_cases hbytes : c.bytes = [] <;> simp [decode, decodePlain, h, hbytes]

/-- A reserved code and a receive buffer's name no transmit buffer (R72). -/
theorem txOfCode_eq_none : ∀ code : BitVec 4, reservedBuf code = true ∨ 8 ≤ code.toNat →
    txOfCode code = none := by decide

/-- The encoding of TX_SEND decodes, whatever ARG is (R81). -/
theorem decode_txSend (sn : Subnet) (arg : DWord) :
    decode ⟨cmdWord 0x30 (BufId.code ⟨.tx, sn⟩) 0 0, arg, []⟩ = some (.txSend sn) := by
  rw [decode_of_op_txSend (by simp [Transaction.op])]
  simp [Transaction.sub, Transaction.imm, Transaction.buf]

/-- TX_SEND appends the words it reads and counts their draws. -/
theorem exec_txSend {s : State} (hf : s.fatal = false) (sn : Subnet) :
    exec (.txSend sn) s = .next { s with
      draws := (s.sentWords sn).2
      txout := s.txout.set sn (s.txout.get sn ++ (s.sentWords sn).1) } := by
  rw [exec, execTxSend, command_of_legal hf rfl]

/-- TX_SEND of words that have been written reads just them. -/
theorem State.sentWords_of_holds {s : State} {sn : Subnet} {vs : List Word}
    (h : s.Holds ⟨.tx, sn⟩ 0 vs) (hlen : vs.length = (s.tx.get sn).len.toNat) :
    s.sentWords sn = (vs, s.draws) := by
  rw [State.sentWords, ← hlen]
  exact Memory.readAll_of_holds h s.draws

/-- Settles O38: the decoder's arm of op 0x30, and the exact next state of TX_SEND. -/
theorem txSendAppendsTheBuffer : Obligations.TxSendAppendsTheBuffer := by
  refine ⟨decode_txSend, fun c hop hbuf => ?_, fun s sn hf => ?_⟩
  · simp [decode_of_op_txSend hop, txOfCode_eq_none c.buf hbuf]
  · refine ⟨_, (s.sentWords sn).1, exec_txSend hf sn, rfl, Memory.readAll_length _ _ _ _,
      fun vs hvs hlen => ?_, PerSubnet.get_set_same _ _ _,
      fun sn' hne => PerSubnet.get_set_other _ _ hne, rfl⟩
    simp [State.sentWords_of_holds hvs hlen]

end Sys2Proof.Machine
end

section
/-! Fields written and read back: a write command appends words at the write cursor, a read command takes the
words that stand at the read cursor, and the bytes of a field survive the way through a data word
(20_memory.md R54 to R57). -/

namespace Sys2Proof.Machine

open Sys2Proof

/-! ## Bytes of fields and of words (R54, R55, R75, R77) -/

/-- A 16-bit field is put together again from its bytes (R55). -/
theorem u16be_bytes16be (v : Word) : u16be (bytes16be v) = v :=
  (BitVec.extractLsb'_append_extractLsb'_eq_extractLsb' rfl).trans BitVec.extractLsb'_eq_self

/-- A CRC is put together again from its bytes, low byte first (R54). -/
theorem u16le_bytesCrc (c : Word) : u16le (bytesCrc c) = c := u16be_bytes16be c

/-- A 32-bit field is put together again from its bytes (R55). -/
theorem u32be_bytes32be (v : DWord) : u32be (bytes32be v) = v :=
  calc u32be (bytes32be v)
    _ = v.extractLsb' 24 8 ++ v.extractLsb' 16 8 ++ v.extractLsb' 8 8 ++ v.extractLsb' 0 8 := rfl
    _ = v.extractLsb' 16 16 ++ v.extractLsb' 8 8 ++ v.extractLsb' 0 8 := by
      rw [BitVec.extractLsb'_append_extractLsb'_eq_extractLsb' (x := v) (start₂ := 24) rfl]
    _ = v.extractLsb' 8 24 ++ v.extractLsb' 0 8 := by
      rw [BitVec.extractLsb'_append_extractLsb'_eq_extractLsb' (x := v) (start₂ := 16) rfl]
    _ = v := (BitVec.extractLsb'_append_extractLsb'_eq_extractLsb' rfl).trans
      BitVec.extractLsb'_eq_self

theorem Config.txDataTag_of_wf {cfg : Config} (h : cfg.wf = true) : cfg.txDataTag &&& 0x01FF = 1 := by
  simp only [Config.wf, Config.codesOk, Bool.and_eq_true, beq_iff_eq] at h
  tauto

/-- The byte field of a data word is its byte: the tag has no bit in it (R75). -/
theorem byteAt_dataWord {cfg : Config} (h : cfg.wf = true) (x : Byte) :
    byteAt 1 (cfg.dataWord x) = x := by
  ext i hi
  have htag : cfg.txDataTag.getLsbD (1 + i) = false := by
    have hbit := congrArg (BitVec.getLsbD · (1 + i)) (Config.txDataTag_of_wf h)
    interval_cases i <;> simpa using hbit
  simp [byteAt, Config.dataWord, htag]
  grind

/-- `byte_of` reads a data word back on a transmit buffer, and on a receive buffer with RX_BYTE_LSB = 1. -/
theorem byteOf_dataWord {cfg : Config} (h : cfg.wf = true) {k : BufKind}
    (hk : k = .tx ∨ cfg.rxByteLsb = 1) (x : Byte) : cfg.byteOf k (cfg.dataWord x) = x := by
  cases k with
  | tx => exact byteAt_dataWord h x
  | rx =>
    obtain hk | hlsb := hk
    · cases hk
    · rw [Config.byteOf, hlsb, byteAt_dataWord h]

section
variable {s t : State} {b : BufId} {i r : Instr} {is : List Instr} {ws vs : List Word}
  {x : Byte} {xs : List Byte}

/-! ## Running a sequence (R62) -/

theorem runAll_cons (h : exec i s = .next t) : runAll (i :: is) s = runAll is t := by
  rw [runAll, h]

theorem runAll_singleton (r : Instr) (s : State) : runAll [r] s = exec r s := by
  obtain ⟨t, h⟩ := exec_next r s
  rw [runAll_cons h, h, runAll]

/-! ## Writes (R120, R122 to R128) -/

/-- The state after ws has been stored at the write cursor of b (`State.writeWords_of_room`). -/
def State.appended (s : State) (b : BufId) (ws : List Word) : State :=
  s.setBuf b
    { s.buf b with
      mem := Memory.storeAll (s.buf b).mem (s.buf b).widx.toNat ws
      widx := BitVec.ofNat 16 ((s.buf b).widx.toNat + ws.length) }

@[simp] theorem State.appended_cfg : (s.appended b ws).cfg = s.cfg := State.setBuf_cfg ..
@[simp] theorem State.appended_fatal : (s.appended b ws).fatal = s.fatal := State.setBuf_fatal ..
@[simp] theorem State.appended_result : (s.appended b ws).result = s.result := State.setBuf_result ..
@[simp] theorem State.buf_appended : (s.appended b ws).buf b =
    { s.buf b with
      mem := Memory.storeAll (s.buf b).mem (s.buf b).widx.toNat ws
      widx := BitVec.ofNat 16 ((s.buf b).widx.toNat + ws.length) } := State.buf_setBuf_same ..

theorem State.appended_holds : (s.appended b ws).Holds b (s.buf b).widx.toNat ws := fun k hk => by
  rw [State.word?, State.buf_appended]
  exact Memory.word?_storeAll_inside _ ws _ hk

theorem Memory.storeAll_append (m : Memory) (k : Nat) (ws vs : List Word) :
    Memory.storeAll m k (ws ++ vs) = Memory.storeAll (Memory.storeAll m k ws) (k + ws.length) vs := by
  induction ws generalizing m k with
  | nil => rfl
  | cons w ws ih =>
    rw [List.cons_append, Memory.storeAll, ih, Memory.storeAll, List.length_cons, Nat.add_right_comm,
      Nat.add_assoc]

theorem PerSubnet.set_set {α : Type} (p : PerSubnet α) (sn : Subnet) (a a' : α) :
    (p.set sn a).set sn a' = p.set sn a' := by cases sn <;> rfl

theorem State.setBuf_setBuf (s : State) (b : BufId) (x y : Buffer) :
    (s.setBuf b x).setBuf b y = s.setBuf b y := by
  obtain ⟨k, sn⟩ := b
  cases k <;> simp [State.setBuf, PerSubnet.set_set]

theorem State.appended_widx (h : (s.buf b).widx.toNat + ws.length < 2 ^ 16) :
    ((s.appended b ws).buf b).widx.toNat = (s.buf b).widx.toNat + ws.length := by
  rw [State.buf_appended]
  exact Nat.mod_eq_of_lt h

/-- Two writes one after the other store what one write of both would. -/
theorem State.appended_appended (h : (s.buf b).widx.toNat + ws.length < 2 ^ 16) :
    (s.appended b ws).appended b vs = s.appended b (ws ++ vs) := by
  rw [State.appended, State.appended_widx h, State.buf_appended, State.appended, State.setBuf_setBuf,
    State.appended, Memory.storeAll_append, List.length_append, Nat.add_assoc]

/-- A write command with a fixed word list runs the common write step on it. -/
theorem exec_eq_writeWords (hf : s.fatal = false) (hi : i.wf s.cfg = true)
    (hw : writtenWords s.cfg i = some (b, ws)) :
    exec i s = .next (s.writeWords b ws (i.cmd s.cfg)) := by
  cases i <;> cases hw
  all_goals
    dsimp only [exec]
    exact command_of_legal hf hi _

/-- A write command that fits appends its words. -/
theorem exec_write (hf : s.fatal = false) (hi : i.wf s.cfg = true)
    (hw : writtenWords s.cfg i = some (b, ws))
    (room : (s.buf b).widx.toNat + ws.length ≤ s.cfg.capWords) :
    exec i s = .next (s.appended b ws) := by
  rw [exec_eq_writeWords hf hi hw, State.writeWords_of_room room, State.appended]

/-- WRITE_CRC that fits appends the data words of the CRC's bytes, after the draws of the frame's words. -/
theorem exec_writeCrc (hf : s.fatal = false)
    (room : (s.buf b).widx.toNat + 2 ≤ s.cfg.capWords) :
    exec (.writeCrc b) s = .next (State.appended { s with draws := (s.frameBytes b).2 } b
      ((bytesCrc (crc16 (s.frameBytes b).1)).map s.cfg.dataWord)) := by
  rw [exec, execWriteCrc, command_of_legal hf rfl, if_neg (by omega), State.writeBytes,
    State.writeWords_of_room (by simpa [bytesCrc] using room), State.appended]

/-! ## Reads (R160 to R167) -/

/-- The words ws stand at the read cursor of b and within LEN_b, outside the fatal state. -/
structure State.Readable (s : State) (b : BufId) (ws : List Word) : Prop where
  safe : s.fatal = false
  holds : s.Holds b (s.buf b).ridx.toNat ws
  within : (s.buf b).ridx.toNat + ws.length ≤ (s.buf b).len.toNat

/-- The state after a read of n written words (`State.readWords_of_avail`). -/
def State.advanced (s : State) (b : BufId) (n : Nat) : State :=
  s.setBuf b { s.buf b with ridx := BitVec.ofNat 16 ((s.buf b).ridx.toNat + n) }

@[simp] theorem State.advanced_cfg (n : Nat) : (s.advanced b n).cfg = s.cfg := State.setBuf_cfg ..
@[simp] theorem State.advanced_fatal (n : Nat) : (s.advanced b n).fatal = s.fatal :=
  State.setBuf_fatal ..
@[simp] theorem State.advanced_result (n : Nat) : (s.advanced b n).result = s.result :=
  State.setBuf_result ..

/-- A read of readable words yields them and draws nothing. -/
theorem State.Readable.readWords (h : s.Readable b ws) {n : Nat} (hn : ws.length = n) (cmd : DWord)
    (k : List Word → State → State) : s.readWords b n cmd k = k ws (s.advanced b n) := by
  subst hn
  rw [State.readWords_of_avail h.within, Memory.readAll_of_holds h.holds]
  rfl

/-- The first of the readable words is readable. -/
theorem State.Readable.head {w : Word} (h : s.Readable b (w :: ws)) : s.Readable b [w] where
  safe := h.safe
  holds k hk := by
    obtain rfl : k = 0 := by simpa using hk
    exact h.holds 0 (by simp)
  within := by
    have := h.within
    simp only [List.length_cons, List.length_nil] at *
    omega

/-- The other words are readable once the first has been read. -/
theorem State.Readable.tail {w : Word} (h : s.Readable b (w :: ws)) :
    (s.advanced b 1).Readable b ws := by
  have hwithin := h.within
  rw [List.length_cons] at hwithin
  have hridx : ((s.advanced b 1).buf b).ridx.toNat = (s.buf b).ridx.toNat + 1 := by
    rw [State.advanced, State.buf_setBuf_same]
    exact toNat_ofNat_of_le (v := (s.buf b).len) (by omega)
  refine ⟨(State.advanced_fatal 1).trans h.safe, fun k hk => ?_, ?_⟩
  · have hword := h.holds (k + 1) (by simpa using hk)
    rw [hridx, Nat.add_assoc, Nat.add_comm 1 k]
    simpa [State.word?, State.advanced] using hword
  · rw [hridx, State.advanced, State.buf_setBuf_same]
    show _ ≤ (s.buf b).len.toNat
    omega

/-- The bytes xs can be read at the read cursor of b. -/
def State.ReadableBytes (s : State) (b : BufId) (xs : List Byte) : Prop :=
  ∃ ws, s.Readable b ws ∧ ws.map (s.cfg.byteOf b.kind) = xs

theorem State.ReadableBytes.safe (h : s.ReadableBytes b xs) : s.fatal = false := by
  obtain ⟨ws, hws, -⟩ := h
  exact hws.safe

theorem State.ReadableBytes.readBytes (h : s.ReadableBytes b xs) {n : Nat} (hn : xs.length = n)
    (cmd : DWord) (k : List Byte → State → State) :
    s.readBytes b n cmd k = k xs (s.advanced b n) := by
  obtain ⟨ws, hws, rfl⟩ := h
  rw [State.readBytes, hws.readWords (by simpa using hn)]

theorem State.ReadableBytes.head (h : s.ReadableBytes b (x :: xs)) : s.ReadableBytes b [x] := by
  obtain ⟨ws, hws, hx⟩ := h
  obtain ⟨w, ws', rfl, rfl, -⟩ := List.map_eq_cons_iff.1 hx
  exact ⟨[w], hws.head, rfl⟩

theorem State.ReadableBytes.tail (h : s.ReadableBytes b (x :: xs)) :
    (s.advanced b 1).ReadableBytes b xs := by
  obtain ⟨ws, hws, hx⟩ := h
  obtain ⟨w, ws', rfl, -, hxs⟩ := List.map_eq_cons_iff.1 hx
  exact ⟨ws', hws.tail, by rw [State.advanced_cfg]; exact hxs⟩

/-- A value in RESULT does not change what can be read. -/
theorem State.ReadableBytes.withResult (h : s.ReadableBytes b xs) (v : DWord) :
    (s.withResult v).ReadableBytes b xs := by
  obtain ⟨ws, ⟨hsafe, hholds, hwithin⟩, hxs⟩ := h
  exact ⟨ws, ⟨hsafe, hholds, hwithin⟩, hxs⟩

theorem State.Readable.exec_readWord {w : Word} (h : s.Readable b [w]) :
    exec (.readWord b) s = .next ((s.advanced b 1).withResult (w.setWidth 32)) := by
  rw [exec, execReadWord, command_of_legal h.safe rfl, h.readWords List.length_singleton]
  rfl

theorem State.ReadableBytes.exec_readU8 (h : s.ReadableBytes b (x :: xs)) :
    exec (.readU8 b) s = .next ((s.advanced b 1).withResult (x.setWidth 32)) := by
  rw [exec, execReadU8, command_of_legal h.safe rfl, h.head.readBytes List.length_singleton]
  rfl

theorem State.ReadableBytes.exec_readU16 (h : s.ReadableBytes b xs) (hn : xs.length = 2) :
    exec (.readU16 b) s = .next ((s.advanced b 2).withResult ((u16be xs).setWidth 32)) := by
  rw [exec, execReadU16, command_of_legal h.safe rfl, h.readBytes hn]

theorem State.ReadableBytes.exec_readCrc (h : s.ReadableBytes b xs) (hn : xs.length = 2) :
    exec (.readCrc b) s = .next ((s.advanced b 2).withResult ((u16le xs).setWidth 32)) := by
  rw [exec, execReadCrc, command_of_legal h.safe rfl, h.readBytes hn]

/-- READ_U32 and READ_FLOAT take the same four bytes (R163, R164). -/
theorem State.ReadableBytes.exec_read32 (h : s.ReadableBytes b xs) (hn : xs.length = 4)
    (hr : r ∈ [Instr.readU32 b, .readFloat b]) :
    exec r s = .next ((s.advanced b 4).withResult (u32be xs)) := by
  simp only [List.mem_cons, List.not_mem_nil, or_false] at hr
  obtain rfl | rfl := hr
  · rw [exec, execReadU32, command_of_legal h.safe rfl, h.readBytes hn]
  · rw [exec, execReadFloat, command_of_legal h.safe rfl, h.readBytes hn]

theorem State.ReadableBytes.exec_readString (h : s.ReadableBytes b xs) {n : Word}
    (hn : xs.length = n.toNat) :
    exec (.readString b n) s = .next { s.advanced b n.toNat with rbytes := xs } := by
  rw [exec, execReadString, command_of_legal h.safe rfl, h.readBytes hn]

/-! ## From a write to a read: SET_LENGTH and SET_INDEX (R135, R136) -/

theorem exec_setLength {v : Word} (hf : s.fatal = false) (hv : v.toNat ≤ s.cfg.capWords) :
    exec (.setLength b v) s = .next (s.setBuf b { s.buf b with len := v }) := by
  rw [exec, execSetLength, command_of_legal hf rfl, if_neg (by omega)]

theorem exec_setIndex_read {v : Word} (hf : s.fatal = false) (hv : v.toNat ≤ s.cfg.capWords) :
    exec (.setIndex b .read v) s = .next (s.setBuf b { s.buf b with ridx := v }) := by
  rw [exec, execSetIndex, command_of_legal hf rfl, if_neg (by omega)]
  rfl

/-- After a write, a length that covers it and the read cursor at its start leave its words readable. -/
theorem runAll_readBack {e : Word} (hf : s.fatal = false) (he : e.toNat ≤ s.cfg.capWords)
    (room : (s.buf b).widx.toNat + ws.length ≤ e.toNat) :
    ∃ t, t.Readable b ws ∧ t.cfg = s.cfg ∧ t.result = s.result ∧ ∀ r,
      runAll [.setLength b e, .setIndex b .read (s.buf b).widx, r] (s.appended b ws) = exec r t := by
  refine ⟨((s.appended b ws).setBuf b { (s.appended b ws).buf b with len := e }).setBuf b
    { (s.appended b ws).buf b with len := e, ridx := (s.buf b).widx }, ⟨?_, fun k hk => ?_, ?_⟩, ?_, ?_,
    fun r => ?_⟩
  · simp [hf]
  · simpa [State.word?] using State.appended_holds (s := s) (b := b) k hk
  · simpa using room
  · simp
  · simp
  · rw [runAll_cons (exec_setLength (by simp [hf]) (by simpa using he)),
      runAll_cons (exec_setIndex_read (by simp [hf]) (by simp; omega)), runAll_singleton,
      State.buf_setBuf_same]

/-- After the data words of xs have been written, the bytes xs are readable, in a buffer whose words carry
bytes as transmit words do. -/
theorem runAll_readBack_bytes {e : Word} (hwf : s.cfg.wf = true)
    (hk : b.kind = .tx ∨ s.cfg.rxByteLsb = 1) (hf : s.fatal = false)
    (he : e.toNat ≤ s.cfg.capWords) (room : (s.buf b).widx.toNat + xs.length ≤ e.toNat) :
    ∃ t, t.ReadableBytes b xs ∧ t.result = s.result ∧ ∀ r,
      runAll [.setLength b e, .setIndex b .read (s.buf b).widx, r]
        (s.appended b (xs.map s.cfg.dataWord)) = exec r t := by
  obtain ⟨t, ht, hcfg, hres, hrun⟩ :=
    runAll_readBack (ws := xs.map s.cfg.dataWord) hf he (by simpa using room)
  refine ⟨t, ⟨_, ht, ?_⟩, hres, hrun⟩
  have hid : s.cfg.byteOf b.kind ∘ s.cfg.dataWord = id := funext (byteOf_dataWord hwf hk)
  rw [hcfg, List.map_map, hid, List.map_id]

/-- A command that stores the bytes xs leaves them readable. -/
theorem runAll_write_readBack {e : Word} (hwf : s.cfg.wf = true)
    (hk : b.kind = .tx ∨ s.cfg.rxByteLsb = 1) (hf : s.fatal = false)
    (he : e.toNat ≤ s.cfg.capWords) (room : (s.buf b).widx.toNat + xs.length ≤ e.toNat)
    (hi : i.wf s.cfg = true) (hw : writtenWords s.cfg i = some (b, xs.map s.cfg.dataWord)) :
    ∃ t, t.ReadableBytes b xs ∧ t.result = s.result ∧ ∀ r,
      runAll [i, .setLength b e, .setIndex b .read (s.buf b).widx, r] s = exec r t := by
  obtain ⟨t, ht, hres, hrun⟩ := runAll_readBack_bytes hwf hk hf he room
  have hwrite := exec_write hf hi hw (by simpa using room.trans he)
  exact ⟨t, ht, hres, fun r => (runAll_cons hwrite).trans (hrun r)⟩

/-! ## Each width -/

theorem writeWord_readBack {e : Word} (hf : s.fatal = false) (he : e.toNat ≤ s.cfg.capWords)
    (room : (s.buf b).widx.toNat + 1 ≤ e.toNat) (w : Word) :
    ∃ t, runAll [.writeWord b w, .setLength b e, .setIndex b .read (s.buf b).widx, .readWord b] s =
      .next t ∧ t.result = w.setWidth 32 ∧ t.fatal = false := by
  obtain ⟨t, ht, -, -, hrun⟩ := runAll_readBack (ws := [w]) hf he room
  have hwrite : exec (.writeWord b w) s = _ := exec_write hf rfl rfl (room.trans he)
  exact ⟨_, (runAll_cons hwrite).trans ((hrun _).trans ht.exec_readWord), rfl,
    (State.advanced_fatal 1).trans ht.safe⟩

section
variable {e : Word} (hwf : s.cfg.wf = true) (hk : b.kind = .tx ∨ s.cfg.rxByteLsb = 1)
  (hf : s.fatal = false) (he : e.toNat ≤ s.cfg.capWords)
include hwf hk hf he

theorem writeU8_readBack (room : (s.buf b).widx.toNat + 1 ≤ e.toNat) (x : Byte) :
    ∃ t, runAll [.writeU8 b x, .setLength b e, .setIndex b .read (s.buf b).widx, .readU8 b] s =
      .next t ∧ t.result = x.setWidth 32 ∧ t.fatal = false := by
  obtain ⟨t, ht, -, hrun⟩ := runAll_write_readBack (i := .writeU8 b x) (xs := [x]) hwf hk hf he room
    rfl rfl
  exact ⟨_, (hrun _).trans ht.exec_readU8, rfl, (State.advanced_fatal 1).trans ht.safe⟩

/-- READ_CRC returns the CRC that WRITE_CRC stored (R128, R166). -/
theorem writeCrc_readBack (room : (s.buf b).widx.toNat + 2 ≤ e.toNat) :
    ∃ t, runAll [.writeCrc b, .setLength b e, .setIndex b .read (s.buf b).widx, .readCrc b] s =
      .next t ∧ t.fatal = false ∧ t.result = (crc16 (s.frameBytes b).1).setWidth 32 := by
  obtain ⟨t, ht, -, hrun⟩ := runAll_readBack_bytes (s := { s with draws := (s.frameBytes b).2 })
    (xs := bytesCrc (crc16 (s.frameBytes b).1)) hwf hk hf he room
  have hwrite := exec_writeCrc hf (room.trans he)
  refine ⟨_, (runAll_cons hwrite).trans ((hrun _).trans (ht.exec_readCrc rfl)),
    (State.advanced_fatal 2).trans ht.safe, ?_⟩
  rw [State.withResult_result, u16le_bytesCrc]

/-- WRITE_U16 leaves its two bytes readable, most significant first, whichever command reads them (R55). -/
theorem writeU16_readBack (room : (s.buf b).widx.toNat + 2 ≤ e.toNat) (v : Word) :
    ∃ t, t.ReadableBytes b (bytes16be v) ∧ ∀ r,
      runAll [.writeU16 b v, .setLength b e, .setIndex b .read (s.buf b).widx, r] s = exec r t := by
  obtain ⟨t, ht, -, hrun⟩ := runAll_write_readBack (i := .writeU16 b v) (xs := bytes16be v)
    hwf hk hf he room rfl rfl
  exact ⟨t, ht, hrun⟩

/-- Two bytes written one by one are read as one U16 (R55). -/
theorem writeU8_writeU8_readBack (room : (s.buf b).widx.toNat + 2 ≤ e.toNat) (x0 x1 : Byte) :
    ∃ t, runAll [.writeU8 b x0, .writeU8 b x1, .setLength b e, .setIndex b .read (s.buf b).widx,
      .readU16 b] s = .next t ∧ t.result = (x0 ++ x1).setWidth 32 := by
  obtain ⟨t, ht, -, hrun⟩ := runAll_readBack_bytes (xs := [x0, x1]) hwf hk hf he room
  have hnowrap : (s.buf b).widx.toNat + 1 < 2 ^ 16 := by omega
  have hfirst : exec (.writeU8 b x0) s = _ := exec_write hf rfl rfl (by simp; omega)
  have hsecond : exec (.writeU8 b x1) (s.appended b [s.cfg.dataWord x0]) = _ :=
    exec_write (by simpa using hf) rfl rfl (by rw [State.appended_widx hnowrap]; simp; omega)
  rw [State.appended_cfg, State.appended_appended hnowrap] at hsecond
  exact ⟨_, (runAll_cons hfirst).trans ((runAll_cons hsecond).trans
    ((hrun _).trans (ht.exec_readU16 rfl))), rfl⟩

/-- WRITE_U32 and WRITE_FLOAT store the same four bytes, READ_U32 and READ_FLOAT put them together. -/
theorem write32_readBack (room : (s.buf b).widx.toNat + 4 ≤ e.toNat) (v : DWord)
    (hi : i ∈ [Instr.writeU32 b v, .writeFloat b v]) (hr : r ∈ [Instr.readU32 b, .readFloat b]) :
    ∃ t, runAll [i, .setLength b e, .setIndex b .read (s.buf b).widx, r] s = .next t ∧
      t.result = v ∧ t.fatal = false := by
  obtain ⟨hlegal, hstored⟩ : i.wf s.cfg = true ∧
      writtenWords s.cfg i = some (b, (bytes32be v).map s.cfg.dataWord) := by
    simp only [List.mem_cons, List.not_mem_nil, or_false] at hi
    obtain rfl | rfl := hi <;> exact ⟨rfl, rfl⟩
  obtain ⟨t, ht, -, hrun⟩ := runAll_write_readBack (xs := bytes32be v) hwf hk hf he room hlegal hstored
  exact ⟨_, (hrun _).trans (ht.exec_read32 rfl hr), u32be_bytes32be v,
    (State.advanced_fatal 4).trans ht.safe⟩

theorem writeString_readBack {n : Word} (hn : xs.length = n.toNat)
    (room : (s.buf b).widx.toNat + n.toNat ≤ e.toNat) :
    ∃ t, runAll [.writeString b n xs, .setLength b e, .setIndex b .read (s.buf b).widx,
      .readString b n] s = .next t ∧ t.rbytes = xs ∧ t.result = s.result := by
  obtain ⟨t, ht, hres, hrun⟩ := runAll_write_readBack (i := .writeString b n xs) (xs := xs)
    hwf hk hf he (by omega) (by simpa [Instr.wf] using hn) rfl
  exact ⟨_, (hrun _).trans (ht.exec_readString hn), rfl, (State.advanced_result _).trans hres⟩

end
end

/-- Settles O37, width by width: each write leaves its bytes readable, and the matching read puts them
together again. -/
theorem writtenFieldsReadBack : Obligations.WrittenFieldsReadBack := by
  intro s b e hwf hf he
  refine ⟨writeWord_readBack hf he, fun hk => ⟨writeU8_readBack hwf hk hf he, fun room =>
    ⟨writeCrc_readBack hwf hk hf he room, fun v => ?_, fun v => ?_, fun v => ?_,
      writeU8_writeU8_readBack hwf hk hf he room⟩,
    fun room v i hi r hr => write32_readBack hwf hk hf he room v hi hr,
    fun n xs hn room => writeString_readBack hwf hk hf he hn room⟩⟩
  all_goals obtain ⟨t, ht, hrun⟩ := writeU16_readBack hwf hk hf he room v
  · refine ⟨_, (hrun _).trans (ht.exec_readU16 rfl), ?_, (State.advanced_fatal 2).trans ht.safe⟩
    rw [State.withResult_result, u16be_bytes16be]
  · exact ⟨_, (hrun _).trans (ht.exec_readCrc rfl), rfl⟩
  · have hrest := ht.tail.withResult ((v.extractLsb' 8 8).setWidth 32)
    exact ⟨_, (hrun _).trans ht.exec_readU8, rfl, _, hrest.exec_readU8, rfl⟩

end Sys2Proof.Machine
end

section
/-! The decoder of the host command port beside R79's table and R80's list: what each form of command word
decodes to, and whether the list makes it illegal (30_encoding.md R71 to R74, R79, R80). -/

namespace Sys2Proof.Machine

open Sys2Proof

/-! ## The fields of a CMD word (R71 to R74) -/

/-- A CMD word is put together from its four fields (R71, R84). -/
theorem cmd_eq_cmdWord (t : Transaction) : t.cmd = cmdWord t.op t.buf t.sub t.imm := by
  ext i hi
  simp [cmdWord, Transaction.op, Transaction.buf, Transaction.sub, Transaction.imm]
  grind

/-- Just the reserved codes name no buffer (R72). -/
theorem isSome_bufOfCode : ∀ c : BitVec 4, (bufOfCode c).isSome = !reservedBuf c := by decide

theorem code_of_bufOfCode : ∀ {c : BitVec 4} {b : BufId}, bufOfCode c = some b → b.code = c := by
  decide

theorem isSome_txOfCode : ∀ c : BitVec 4,
    (txOfCode c).isSome = !(reservedBuf c || decide (8 ≤ c.toNat)) := by decide

theorem code_of_txOfCode : ∀ {c : BitVec 4} {sn : Subnet}, txOfCode c = some sn →
    BufId.code ⟨.tx, sn⟩ = c := by decide

theorem isSome_rxOfCode : ∀ c : BitVec 4,
    (rxOfCode c).isSome = !(reservedBuf c || decide (c.toNat < 8)) := by decide

theorem code_of_rxOfCode : ∀ {c : BitVec 4} {sn : Subnet}, rxOfCode c = some sn →
    BufId.code ⟨.rx, sn⟩ = c := by decide

theorem isSome_cursorOfSub : ∀ c : BitVec 4, (cursorOfSub c).isSome = !decide (2 ≤ c.toNat) := by
  decide

theorem code_of_cursorOfSub : ∀ {c : BitVec 4} {sel : Cursor}, cursorOfSub c = some sel →
    sel.code = c := by decide

/-- Class code 3 of a `sub` field is not a class (R73). -/
theorem isSome_classOfCode : ∀ c : BitVec 4,
    (classOfCode (c.extractLsb' 2 2)).isSome = !decide (12 ≤ c.toNat) := by decide

theorem code_of_classOfCode : ∀ {c : BitVec 4} {cls : DevClass},
    classOfCode (c.extractLsb' 2 2) = some cls → cls.code ++ c.extractLsb' 0 2 = c := by decide

theorem toNat_mod_four_eq_zero_iff : ∀ c : BitVec 4, c.toNat % 4 = 0 ↔ c.extractLsb' 0 2 = 0 := by
  decide

theorem code_append_div_four : ∀ (cls : DevClass) (e : BitVec 2),
    (cls.code ++ e).toNat / 4 = cls.code.toNat := by
  intro cls
  cases cls <;> decide

/-- N_c of the class in a `sub` field, as R80 (g) counts it. -/
theorem countOfCode_append (cfg : Config) (cls : DevClass) (e : BitVec 2) :
    Config.countOfCode cfg ((cls.code ++ e).toNat / 4) = cfg.count cls := by
  rw [code_append_div_four]
  cases cls <;> rfl

/-! ## What a transaction decodes to, beside R80 -/

/-- The transaction t is that of the command i, whose operand values are illegal if `illegal` says so. -/
structure Carries (cfg : Config) (t : Transaction) (i : Instr) (illegal : Bool) : Prop where
  isCommand : i.isCommand = true
  cmd : i.cmd cfg = t.cmd
  bytes : i.bytes = t.bytes
  wf : i.wf cfg = !illegal

/-- A decoder's answer for t agrees with the verdict `illegal`: it is a command that t carries, or there is
none and t is illegal. -/
inductive Reading (cfg : Config) (t : Transaction) : Option Instr → Bool → Prop
  | command {i : Instr} {illegal : Bool} (h : Carries cfg t i illegal) :
      Reading cfg t (some i) illegal
  | none : Reading cfg t none true

section
variable {cfg : Config} {t : Transaction} {op : BitVec 8} {i : Instr} {o : Option Instr}
  {illegal : Bool}

theorem Reading.congr {illegal' : Bool} (h : Reading cfg t o illegal') (heq : illegal = illegal') :
    Reading cfg t o illegal := heq ▸ h

/-- A condition on the fields: where it fails the transaction is illegal. -/
theorem Reading.ite {p : Prop} [Decidable p] (h : p → Reading cfg t o illegal) :
    Reading cfg t (if p then o else Option.none) (!decide p || illegal) := by
  by_cases hp : p
  · simpa [hp] using h hp
  · simpa [hp] using Reading.none

/-- An operand decoded from a field: where the code has no meaning the transaction is illegal. -/
theorem Reading.bind {α : Type} {x : Option α} {f : α → Option Instr} {bad : Bool}
    (hx : x.isSome = !bad) (h : ∀ a, x = some a → Reading cfg t (f a) illegal) :
    Reading cfg t (x.bind f) (bad || illegal) := by
  cases x with
  | none =>
    obtain rfl : bad = true := by simpa using hx
    exact .none
  | some a =>
    obtain rfl : bad = false := by simpa using hx
    exact h a rfl

/-- The last operand of a command. -/
theorem Reading.map {α : Type} {x : Option α} {k : α → Instr} {bad : Bool} (hx : x.isSome = !bad)
    (h : ∀ a, x = some a → Carries cfg t (k a) illegal) :
    Reading cfg t (x.map k) (bad || illegal) := by
  rw [Option.map_eq_bind]
  exact .bind hx fun a ha => .command (h a ha)

/-! ## The forms of R79's rows -/

/-- A row with one operand in `buf` and nothing in `sub` and `imm`. -/
theorem Reading.onBufField {α : Type} {x : Option α} {code : α → BitVec 4} {k : α → Instr}
    {bad : Bool} (hx : x.isSome = !bad) (hcode : ∀ {a}, x = some a → code a = t.buf)
    (hop : t.op = op) (h : ∀ a, cmdWord op (code a) 0 0 = t.cmd → Carries cfg t (k a) false) :
    Reading cfg t (if t.sub = 0 ∧ t.imm = 0 then x.map k else Option.none)
      (bad || t.sub != 0 || t.imm != 0) := by
  have hread := Reading.ite (cfg := cfg) (t := t) (p := t.sub = 0 ∧ t.imm = 0) fun ⟨hsub, himm⟩ =>
    .map hx fun a ha => h a (by rw [cmd_eq_cmdWord t, hop, hcode ha, hsub, himm])
  exact hread.congr (by simp [bne]; grind)

theorem Reading.onBuf {k : BufId → Instr} (hop : t.op = op)
    (h : ∀ b, cmdWord op b.code 0 0 = t.cmd → Carries cfg t (k b) false) :
    Reading cfg t (Sys2Proof.onBuf t k) (rowIllegal cfg ⟨op, .any, .zero, false⟩ t) :=
  .onBufField (isSome_bufOfCode t.buf) code_of_bufOfCode hop h

theorem Reading.onTx {k : Subnet → Instr} (hop : t.op = op)
    (h : ∀ sn, cmdWord op (BufId.code ⟨.tx, sn⟩) 0 0 = t.cmd → Carries cfg t (k sn) false) :
    Reading cfg t (if t.sub = 0 ∧ t.imm = 0 then (txOfCode t.buf).map k else Option.none)
      (rowIllegal cfg ⟨op, .txOnly, .zero, false⟩ t) :=
  .onBufField (isSome_txOfCode t.buf) code_of_txOfCode hop h

theorem Reading.onRx {k : Subnet → Instr} (hop : t.op = op)
    (h : ∀ sn, cmdWord op (BufId.code ⟨.rx, sn⟩) 0 0 = t.cmd → Carries cfg t (k sn) false) :
    Reading cfg t (if t.sub = 0 ∧ t.imm = 0 then (rxOfCode t.buf).map k else Option.none)
      (rowIllegal cfg ⟨op, .rxOnly, .zero, false⟩ t) :=
  .onBufField (isSome_rxOfCode t.buf) code_of_rxOfCode hop h

/-- PARSE takes any `buf` code (R195). -/
theorem Reading.onAnyCode {k : BitVec 4 → Instr} (hop : t.op = op)
    (h : ∀ c, cmdWord op c 0 0 = t.cmd → Carries cfg t (k c) false) :
    Reading cfg t (if t.sub = 0 ∧ t.imm = 0 then some (k t.buf) else Option.none)
      (rowIllegal cfg ⟨op, .free, .zero, false⟩ t) :=
  .onBufField (x := some t.buf) (code := id) (bad := false) rfl (fun ha => (Option.some.inj ha).symm)
    hop h

/-- `illegal` is what the command's own check on `imm` says (R80 (h), (i)). -/
theorem Reading.onBufImm {k : BufId → Word → Instr} (hop : t.op = op)
    (h : ∀ b, cmdWord op b.code 0 t.imm = t.cmd → Carries cfg t (k b t.imm) illegal) :
    Reading cfg t (Sys2Proof.onBufImm t k)
      (rowIllegal cfg ⟨op, .any, .zero, true⟩ t || illegal) := by
  have hread := Reading.ite (cfg := cfg) (t := t) (p := t.sub = 0) fun hsub =>
    .map (isSome_bufOfCode t.buf) fun b hb =>
      h b (by rw [cmd_eq_cmdWord t, hop, code_of_bufOfCode hb, hsub])
  exact hread.congr (by simp [rowIllegal, bne]; grind)

/-- A row with a buffer and an `imm` of any value. -/
theorem Reading.onBufAnyImm {k : BufId → Word → Instr} (hop : t.op = op)
    (h : ∀ b, cmdWord op b.code 0 t.imm = t.cmd → Carries cfg t (k b t.imm) false) :
    Reading cfg t (Sys2Proof.onBufImm t k) (rowIllegal cfg ⟨op, .any, .zero, true⟩ t) :=
  (Reading.onBufImm hop h).congr (Bool.or_false _).symm

theorem Reading.onNothing (hop : t.op = op) (h : cmdWord op 0 0 0 = t.cmd → Carries cfg t i false) :
    Reading cfg t (Sys2Proof.onNothing t i) (rowIllegal cfg ⟨op, .zero, .zero, false⟩ t) := by
  have hread := Reading.ite (cfg := cfg) (t := t) (p := t.buf = 0 ∧ t.sub = 0 ∧ t.imm = 0)
    fun ⟨hbuf, hsub, himm⟩ => .command (h (by rw [cmd_eq_cmdWord t, hop, hbuf, hsub, himm]))
  exact hread.congr (by simp [rowIllegal, bne]; grind)

/-- SET_INDEX: a buffer, a selector and an `imm` of any value (R74). -/
theorem Reading.onSelectorImm {k : BufId → Cursor → Instr} (hop : t.op = op)
    (h : ∀ b c, cmdWord op b.code c.code t.imm = t.cmd → Carries cfg t (k b c) false) :
    Reading cfg t ((bufOfCode t.buf).bind fun b => (cursorOfSub t.sub).map (k b))
      (rowIllegal cfg ⟨op, .any, .selector, true⟩ t) := by
  have hread := Reading.bind (cfg := cfg) (t := t) (isSome_bufOfCode t.buf) fun b hb =>
    .map (isSome_cursorOfSub t.sub) fun c hc =>
      h b c (by rw [cmd_eq_cmdWord t, hop, code_of_bufOfCode hb, code_of_cursorOfSub hc])
  exact hread.congr (by simp [rowIllegal])

/-- GET_INDEX: a buffer and a selector (R74). -/
theorem Reading.onSelector {k : BufId → Cursor → Instr} (hop : t.op = op)
    (h : ∀ b c, cmdWord op b.code c.code 0 = t.cmd → Carries cfg t (k b c) false) :
    Reading cfg t
      (if t.imm = 0 then (bufOfCode t.buf).bind fun b => (cursorOfSub t.sub).map (k b)
        else Option.none)
      (rowIllegal cfg ⟨op, .any, .selector, false⟩ t) := by
  have hread := Reading.ite (cfg := cfg) (t := t) (p := t.imm = 0) fun himm =>
    .onSelectorImm hop fun b c hcmd => h b c (by rwa [himm] at hcmd)
  exact hread.congr (by simp [rowIllegal, bne]; grind)

/-- The class in `sub[3:2]` with the index in `imm` (R80 (g)). -/
theorem Reading.classField {k : DevClass → Instr}
    (h : ∀ c, c.code ++ t.sub.extractLsb' 0 2 = t.sub →
      Carries cfg t (k c) (decide (cfg.count c ≤ t.imm.toNat))) :
    Reading cfg t ((classOfCode (t.sub.extractLsb' 2 2)).map k)
      (decide (12 ≤ t.sub.toNat) ||
        decide (Config.countOfCode cfg (t.sub.toNat / 4) ≤ t.imm.toNat)) := by
  refine .map (isSome_classOfCode t.sub) fun c hc => ?_
  have hcode := code_of_classOfCode hc
  have hcarries := h c hcode
  rwa [← countOfCode_append cfg c (t.sub.extractLsb' 0 2), hcode] at hcarries

theorem Reading.onDevice {k : DevClass → Word → Instr} (hop : t.op = op)
    (h : ∀ c, cmdWord op 0 (c.code ++ 0#2) t.imm = t.cmd →
      Carries cfg t (k c t.imm) (decide (cfg.count c ≤ t.imm.toNat))) :
    Reading cfg t (Sys2Proof.onDevice t k) (rowIllegal cfg ⟨op, .zero, .classOnly, true⟩ t) := by
  have hread := Reading.ite (cfg := cfg) (t := t) (p := t.buf = 0 ∧ t.sub.extractLsb' 0 2 = 0)
    fun ⟨hbuf, hlow⟩ => .classField fun c hc =>
      h c (by rw [cmd_eq_cmdWord t, hop, hbuf, ← hc, hlow]; rfl)
  exact hread.congr (by simp [rowIllegal, bne]; grind [toNat_mod_four_eq_zero_iff])

/-- SET_EXPECTED: a device and a count in `sub[1:0]` (R74). -/
theorem Reading.onDeviceCount {k : DevClass → Instr} (hop : t.op = op)
    (h : ∀ c, cmdWord op 0 (c.code ++ t.sub.extractLsb' 0 2) t.imm = t.cmd →
      Carries cfg t (k c) (decide (cfg.count c ≤ t.imm.toNat))) :
    Reading cfg t
      (if t.buf = 0 then (classOfCode (t.sub.extractLsb' 2 2)).map k else Option.none)
      (rowIllegal cfg ⟨op, .zero, .classAndCount, true⟩ t) := by
  have hread := Reading.ite (cfg := cfg) (t := t) (p := t.buf = 0) fun hbuf =>
    .classField fun c hc => h c (by rw [cmd_eq_cmdWord t, hop, hbuf, hc])
  exact hread.congr (by simp [rowIllegal, bne]; grind)

/-! ## The whole table -/

/-- An operand value below its bound, beside the list's words for one that is not. -/
theorem decide_lt_eq_not_decide_le (m n : Nat) : decide (m < n) = !decide (n ≤ m) := by
  simp only [← decide_not, Nat.not_le]

/-- R80 for an opcode of the table: its row's cases (b) to (g), then (h) and (i). -/
theorem illegalCommand_of_row {r : CommandRow} (hop : t.op = op)
    (hr : (commandTable.find? fun r => r.op == op) = some r) :
    illegalCommand cfg t = (rowIllegal cfg r t
      || (op == 0x08 && decide (2 ^ cfg.delayArgBits ≤ t.imm.toNat))
      || (if op = 0x05 then t.bytes.length != t.imm.toNat else !t.bytes.isEmpty)) := by
  simp [illegalCommand, hop, hr]

/-- R80 (a). -/
theorem illegalCommand_of_no_row (h : ∀ r ∈ commandTable, t.op ≠ r.op) :
    illegalCommand cfg t = true := by
  have hnone : (commandTable.find? fun r => r.op == t.op) = none :=
    List.find?_eq_none.2 fun r hr => by simpa using (h r hr).symm
  simp [illegalCommand, hnone]

/-- The reading of a row that R80 (h) and (i) do not name. -/
theorem Reading.of_row {r : CommandRow} (h : t.op = op → Reading cfg t o (rowIllegal cfg r t))
    (hnat : t.op.toNat = op.toNat) (hbytes : t.bytes = [])
    (hr : (commandTable.find? fun r => r.op == op) = some r := by rfl)
    (hother : op ≠ 0x05 ∧ op ≠ 0x08 := by decide) : Reading cfg t o (illegalCommand cfg t) := by
  obtain ⟨h5, h8⟩ := hother
  have hop := BitVec.eq_of_toNat_eq hnat
  refine (h hop).congr ?_
  rw [illegalCommand_of_row hop hr, if_neg h5, hbytes, beq_eq_false_iff_ne.2 h8]
  simp

/-- Every command but WRITE_STRING, by the form of its row. The cases are `decodePlain`'s arms, numbered in
their order. -/
theorem decodePlain_reading (hbytes : t.bytes = []) (h5 : t.op ≠ 0x05) :
    Reading cfg t (decodePlain t) (illegalCommand cfg t) := by
  unfold decodePlain
  split
  case h_1 | h_2 | h_3 | h_4 | h_5 | h_6 | h_8 | h_9 | h_10 | h_11 | h_12 | h_13 | h_14 | h_15
  | h_17 | h_18 | h_22 | h_23 =>
    exact .of_row (.onBuf · fun _ hcmd => ⟨rfl, hcmd, hbytes.symm, rfl⟩) ‹_› hbytes
  case h_7 hdelay =>
    have hop : t.op = 0x08 := BitVec.eq_of_toNat_eq hdelay
    refine (Reading.onBufImm (k := .writeDelay) hop fun _ hcmd =>
      ⟨rfl, hcmd, hbytes.symm, decide_lt_eq_not_decide_le ..⟩).congr ?_
    rw [illegalCommand_of_row hop rfl, hbytes]
    simp
  case h_16 | h_21 | h_24 =>
    exact .of_row (.onBufAnyImm · fun _ hcmd => ⟨rfl, hcmd, hbytes.symm, rfl⟩) ‹_› hbytes
  case h_19 =>
    exact .of_row (.onSelector · fun _ _ hcmd => ⟨rfl, hcmd, hbytes.symm, rfl⟩) ‹_› hbytes
  case h_20 =>
    exact .of_row (.onSelectorImm · fun _ _ hcmd => ⟨rfl, hcmd, hbytes.symm, rfl⟩) ‹_› hbytes
  case h_25 => exact .of_row (.onTx · fun _ hcmd => ⟨rfl, hcmd, hbytes.symm, rfl⟩) ‹_› hbytes
  case h_26 =>
    exact .of_row (.onAnyCode (k := .parse) · fun _ hcmd => ⟨rfl, hcmd, hbytes.symm, rfl⟩) ‹_› hbytes
  case h_27 | h_30 | h_31 | h_34 | h_36 =>
    exact .of_row (.onNothing · fun hcmd => ⟨rfl, hcmd, hbytes.symm, rfl⟩) ‹_› hbytes
  case h_28 =>
    exact .of_row (.onDeviceCount · fun _ hcmd =>
      ⟨rfl, hcmd, hbytes.symm, decide_lt_eq_not_decide_le ..⟩) ‹_› hbytes
  case h_29 | h_32 | h_33 =>
    exact .of_row (.onDevice · fun _ hcmd =>
      ⟨rfl, hcmd, hbytes.symm, decide_lt_eq_not_decide_le ..⟩) ‹_› hbytes
  case h_35 => exact .of_row (.onRx · fun _ hcmd => ⟨rfl, hcmd, hbytes.symm, rfl⟩) ‹_› hbytes
  case h_37 =>
    have hstring : t.op.toNat ≠ 5 := fun heq => h5 (BitVec.eq_of_toNat_eq heq)
    refine Reading.none.congr (illegalCommand_of_no_row ?_)
    simp_all [commandTable, BitVec.toNat_eq]

/-- The decoder and R80 agree on every transaction: what decodes is a command of that CMD word and those
BYTES, with legal operand values just where R80 allows them, and what does not decode R80 forbids. -/
theorem decode_reading (cfg : Config) (t : Transaction) :
    Reading cfg t (decode t) (illegalCommand cfg t) := by
  unfold decode
  split
  case isTrue h5 =>
    refine (Reading.onBufImm (k := (.writeString · · t.bytes)) h5 fun _ hcmd =>
      ⟨rfl, hcmd, rfl, (Bool.not_not (t.bytes.length == t.imm.toNat)).symm⟩).congr ?_
    rw [illegalCommand_of_row h5 rfl]
    simp [bne]
  case isFalse h5 =>
    split
    case isTrue hbytes => exact decodePlain_reading hbytes h5
    case isFalse hbytes =>
      refine Reading.none.congr ?_
      rw [illegalCommand, if_neg h5]
      simp [hbytes]

theorem carries_of_decode (cfg : Config) (h : decode t = some i) :
    Carries cfg t i (illegalCommand cfg t) := by
  have hread := decode_reading cfg t
  generalize illegalCommand cfg t = illegal at hread ⊢
  rw [h] at hread
  cases hread with
  | command hcarries => exact hcarries

theorem illegalCommand_of_decode_none (cfg : Config) (h : decode t = none) :
    illegalCommand cfg t = true := by
  have hread := decode_reading cfg t
  generalize illegalCommand cfg t = illegal at hread ⊢
  rw [h] at hread
  cases hread
  rfl

end
end Sys2Proof.Machine
end

section
/-! Decoding and encoding of commands: the round trips, the ARG bits a command does not use, and what an illegal
command does (30_encoding.md R79 to R84). -/

namespace Sys2Proof.Machine

open Sys2Proof

/-! ## The decoder's forms on an assembled CMD word (R84) -/

section
variable {op : BitVec 8} {buf sub : BitVec 4} {imm : Word} {a : DWord} {bs : List Byte}

@[simp] theorem op_cmdWord : Transaction.op ⟨cmdWord op buf sub imm, a, bs⟩ = op :=
  cmdWord_op op buf sub imm
@[simp] theorem buf_cmdWord : Transaction.buf ⟨cmdWord op buf sub imm, a, bs⟩ = buf :=
  cmdWord_buf op buf sub imm
@[simp] theorem sub_cmdWord : Transaction.sub ⟨cmdWord op buf sub imm, a, bs⟩ = sub :=
  cmdWord_sub op buf sub imm
@[simp] theorem imm_cmdWord : Transaction.imm ⟨cmdWord op buf sub imm, a, bs⟩ = imm :=
  cmdWord_imm op buf sub imm

/-- The class code of a `sub` field (R74). -/
@[simp] theorem classField_append (c : DevClass) (e : BitVec 2) :
    BitVec.extractLsb' 2 2 (c.code ++ e) = c.code :=
  (extract_above c.code e 0 2).trans BitVec.extractLsb'_eq_self

/-- The count of a `sub` field (R74). -/
@[simp] theorem countField_append (c : DevClass) (e : BitVec 2) :
    BitVec.extractLsb' 0 2 (c.code ++ e) = e := extract_low c.code e

@[simp] theorem onBuf_cmdWord (b : BufId) (k : BufId → Instr) :
    onBuf ⟨cmdWord op b.code 0#4 0#16, a, bs⟩ k = some (k b) := by simp [onBuf]

@[simp] theorem onBufImm_cmdWord (b : BufId) (k : BufId → Word → Instr) :
    onBufImm ⟨cmdWord op b.code 0#4 imm, a, bs⟩ k = some (k b imm) := by simp [onBufImm]

@[simp] theorem onNothing_cmdWord (i : Instr) :
    onNothing ⟨cmdWord op 0#4 0#4 0#16, a, bs⟩ i = some i := by simp [onNothing]

@[simp] theorem onDevice_cmdWord (c : DevClass) (k : DevClass → Word → Instr) :
    onDevice ⟨cmdWord op 0#4 (c.code ++ 0#2) imm, a, bs⟩ k = some (k c imm) := by simp [onDevice]

end

section
variable {cfg : Config} {t : Transaction} {i : Instr} {s : State}

/-! ## Decode after encode, whatever ARG is (R81) -/

/-- The command with its value operand taken from ARG; a command without one as it is. -/
def Instr.withArg (a : DWord) : Instr → Instr
  | .writeU8 b _ => .writeU8 b (a.extractLsb' 0 8)
  | .writeU16 b _ => .writeU16 b (a.extractLsb' 0 16)
  | .writeU32 b _ => .writeU32 b a
  | .writeFloat b _ => .writeFloat b a
  | .writeWord b _ => .writeWord b (a.extractLsb' 0 16)
  | .computeCrc16 b st _ => .computeCrc16 b st (a.extractLsb' 0 16)
  | i => i

/-- The decoder on a command's CMD word and BYTES gives the command back, with the value operand that ARG
holds. -/
theorem decode_cmd (hi : i.isCommand = true) (a : DWord) :
    decode ⟨i.cmd cfg, a, i.bytes⟩ = some (Instr.withArg a i) := by
  cases i
  case txDataWord | txDelayWord | txTriggerWord | txEofWord | txTimestampWord | rxLengthWord
  | rxTimestampWord | rxDataWord => cases hi
  all_goals simp [decode, decodePlain, Instr.cmd, Instr.bytes, Instr.withArg]

/-- A value narrower than ARG is its low bits (R81). -/
theorem extract_setWidth {n m : Nat} (h : n ≤ m) (x : BitVec n) :
    (x.setWidth m).extractLsb' 0 n = x := by
  ext i hi
  simp [hi]
  omega

/-- A command's own ARG holds its value operand. -/
theorem withArg_arg (i : Instr) : Instr.withArg i.arg i = i := by
  cases i
  case writeU8 b x => exact congrArg (Instr.writeU8 b) (extract_setWidth (by decide) x)
  case writeU16 b v => exact congrArg (Instr.writeU16 b) (extract_setWidth (by decide) v)
  case writeWord b w => exact congrArg (Instr.writeWord b) (extract_setWidth (by decide) w)
  case computeCrc16 b st n =>
    exact congrArg (Instr.computeCrc16 b st) (extract_setWidth (by decide) n)
  all_goals rfl

/-- Settles O1: the decoder gives every command back up to its value operand, which its ARG holds. -/
theorem decodeOfEncodeIsIdentity : Obligations.DecodeOfEncodeIsIdentity := by
  intro cfg i hi
  rw [encode, decode_cmd hi, withArg_arg]

/-! ## Encode after decode -/

/-- Settles O2: a transaction that decodes carries its command. -/
theorem encodeOfDecodeRestoresTheCommandWord :
    Obligations.EncodeOfDecodeRestoresTheCommandWord := by
  intro cfg t i hd
  obtain ⟨hi, hcmd, hbytes, -⟩ := carries_of_decode cfg hd
  exact ⟨hi, hcmd, hbytes⟩

/-- Settles O5: what does not decode is illegal, and the operand values of a legal command are legal. -/
theorem legalCommandDecodes : Obligations.LegalCommandDecodes := by
  intro cfg t hlegal
  cases hd : decode t with
  | none => simp [illegalCommand_of_decode_none cfg hd] at hlegal
  | some i =>
    obtain ⟨hi, -, -, hwf⟩ := carries_of_decode cfg hd
    exact ⟨i, rfl, hi, by rw [hwf, hlegal]; rfl⟩

/-! ## ARG (R81) -/

/-- Another ARG gives the same command with another value operand. -/
theorem decode_of_decode_arg (hd : decode t = some i) (a : DWord) :
    decode { t with arg := a } = some (Instr.withArg a i) := by
  obtain ⟨hi, hcmd, hbytes, -⟩ := carries_of_decode .refcfg hd
  rw [← hcmd, ← hbytes, decode_cmd hi]

/-- All that the decoder takes from ARG is the value operand. -/
theorem decode_arg (t : Transaction) (a : DWord) :
    decode { t with arg := a } = (decode t).map (Instr.withArg a) := by
  cases hd : decode t with
  | some i => exact decode_of_decode_arg hd a
  | none =>
    refine Option.eq_none_iff_forall_ne_some.2 fun i hi => ?_
    have hback : decode t = some (Instr.withArg t.arg i) := decode_of_decode_arg hi t.arg
    rw [hd] at hback
    cases hback

/-- The bits of ARG that a value operand is read from, by opcode. -/
theorem withArg_congr {op : BitVec 8} {a a' : DWord} (hop : (i.cmd cfg).extractLsb' 24 8 = op)
    (h8 : op = 0x01 → a'.extractLsb' 0 8 = a.extractLsb' 0 8)
    (h16 : op = 0x02 ∨ op = 0x06 ∨ op = 0x25 → a'.extractLsb' 0 16 = a.extractLsb' 0 16)
    (h32 : op = 0x03 ∨ op = 0x04 → a' = a) : Instr.withArg a' i = Instr.withArg a i := by
  subst hop
  cases i
  case writeU8 b x => exact congrArg (Instr.writeU8 b) (h8 (cmdWord_op ..))
  case writeU16 b v => exact congrArg (Instr.writeU16 b) (h16 (.inl (cmdWord_op ..)))
  case writeU32 b v => exact congrArg (Instr.writeU32 b) (h32 (.inl (cmdWord_op ..)))
  case writeFloat b v => exact congrArg (Instr.writeFloat b) (h32 (.inr (cmdWord_op ..)))
  case writeWord b w => exact congrArg (Instr.writeWord b) (h16 (.inr (.inl (cmdWord_op ..))))
  case computeCrc16 b st n =>
    exact congrArg (Instr.computeCrc16 b st) (h16 (.inr (.inr (cmdWord_op ..))))
  all_goals rfl

theorem decode_arg_congr {a : DWord}
    (h8 : t.op = 0x01 → a.extractLsb' 0 8 = t.arg.extractLsb' 0 8)
    (h16 : t.op = 0x02 ∨ t.op = 0x06 ∨ t.op = 0x25 →
      a.extractLsb' 0 16 = t.arg.extractLsb' 0 16)
    (h32 : t.op = 0x03 ∨ t.op = 0x04 → a = t.arg) : decode { t with arg := a } = decode t :=
  calc decode { t with arg := a }
    _ = (decode t).map (Instr.withArg a) := decode_arg t a
    _ = (decode t).map (Instr.withArg t.arg) := Option.map_congr fun i hi => by
      obtain ⟨-, hcmd, -, -⟩ := carries_of_decode .refcfg hi
      exact withArg_congr (cfg := .refcfg) (congrArg (BitVec.extractLsb' 24 8) hcmd) h8 h16 h32
    _ = decode t := (decode_arg t t.arg).symm

/-- Settles O3: the decoder takes nothing but the value operand from ARG, so each clause says that the bits it
is read from, if any, are the same. -/
theorem unusedArgBitsAreIgnored : Obligations.UnusedArgBitsAreIgnored := by
  intro t a
  refine ⟨by rw [decode_arg, Option.isSome_map], fun hop h8 => ?_, fun hop h16 => ?_,
    fun ⟨h1, h2, h3, h4, h6, h25⟩ => ?_⟩
  · exact decode_arg_congr (fun _ => h8) (by simp [hop]) (by simp [hop])
  · refine decode_arg_congr ?_ (fun _ => h16) ?_ <;> obtain hop | hop | hop := hop <;> simp [hop]
  · exact decode_arg_congr (absurd · h1) (by tauto) (by tauto)

/-! ## Illegal commands (R80, R231) -/

theorem notACommand_of_safe (hf : s.fatal = false) (cmd : DWord) :
    notACommand cmd s = .next (s.raise .illegalCommand cmd) := by simp [notACommand, hf]

/-- An instruction with illegal operand values has no effect but the fault, whichever it is. -/
theorem exec_of_not_wf (hf : s.fatal = false) (hi : i.wf s.cfg = false) :
    exec i s = .next (s.raise .illegalCommand (i.cmd s.cfg)) := by
  cases i
  case writeString | writeDelay | setExpected | getExpected | readDevwarn | readTimeout =>
    dsimp only [exec]
    exact command_of_illegal hf hi _
  case txDelayWord n => exact notACommand_of_safe hf _
  all_goals cases hi

/-- An illegal command has no effect but the fault (R80, R233). -/
theorem runTransaction_of_illegal (hf : s.fatal = false) (hillegal : illegalCommand s.cfg t = true) :
    s.runTransaction t =
      .next { s with fatal := true, fcause := 4, fcmd := t.cmd, pstate := .idle } := by
  refine Eq.trans ?_ (congrArg _ (State.raise_of_safe hf .illegalCommand t.cmd))
  unfold State.runTransaction
  cases hd : decode t with
  | none => exact notACommand_of_safe hf t.cmd
  | some i =>
    obtain ⟨-, hcmd, -, hwf⟩ := carries_of_decode s.cfg hd
    rw [hillegal] at hwf
    rw [← hcmd]
    exact exec_of_not_wf hf hwf

end

/-- Settles O4: an illegal command does not decode, or decodes to a command with illegal operand values; either
way the fault is all that happens. -/
theorem illegalCommandTakesFatalFault : Obligations.IllegalCommandTakesFatalFault := by
  intro s t rest hwf hf hin hillegal
  rw [step_of_input hwf hin, State.runInput]
  exact runTransaction_of_illegal (s := { s with inputs := rest }) hf hillegal

/-- Settles O9, by evaluating the decoder on each word. -/
theorem sampleWordsDecode : Obligations.SampleWordsDecode :=
  ⟨rfl, rfl, rfl, rfl, rfl, rfl, rfl⟩

end Sys2Proof.Machine
end

section
/-! The FIFO words: where a word carries its byte, which words have the data-word form, how a reader of the
transmit stream tells the five formats apart, and the eight formats met on the command port
(30_encoding.md R75 to R78, R80, R82, R86). -/

namespace Sys2Proof.Machine

open Sys2Proof

section
variable {cfg : Config} {w n : Word} {i : Instr}

/-! ## The configuration's codes (R75, R76) -/

/-- What `Config.codesOk` checks of the transmit codes, by name. -/
structure TransmitCodes (cfg : Config) : Prop where
  tag : cfg.txDataTag &&& 0x01FF = 1
  argBits : cfg.delayArgBits ≤ 16
  base : cfg.cwDelayBase &&& lowMask cfg.delayArgBits = 0
  clear : cfg.delayRangeClear = true
  triggerForm : cfg.isDataForm cfg.cwTrigger = false
  eofForm : cfg.isDataForm cfg.cwEof = false
  timestampForm : cfg.isDataForm cfg.cwTimestamp = false
  triggerEof : cfg.cwTrigger ≠ cfg.cwEof
  triggerTimestamp : cfg.cwTrigger ≠ cfg.cwTimestamp
  eofTimestamp : cfg.cwEof ≠ cfg.cwTimestamp
  triggerRange : cfg.inDelayRange cfg.cwTrigger = false
  eofRange : cfg.inDelayRange cfg.cwEof = false
  timestampRange : cfg.inDelayRange cfg.cwTimestamp = false

theorem Config.transmitCodes (h : cfg.wf = true) : TransmitCodes cfg := by
  simp only [Config.wf, Config.codesOk, Bool.and_eq_true, beq_iff_eq, bne_iff_ne,
    decide_eq_true_eq, Bool.not_eq_true'] at h
  constructor <;> tauto

/-! ## The data-word form (R75, R76 (ii)) -/

/-- The tag has no bit in the byte field. -/
theorem txDataTag_and_form (htag : cfg.txDataTag &&& 0x01FF = 1) :
    cfg.txDataTag &&& 0xFE01 = cfg.txDataTag :=
  calc cfg.txDataTag &&& 0xFE01
    _ = cfg.txDataTag &&& (0x01FF &&& 0xFE01 ||| 0xFE00) := rfl
    _ = cfg.txDataTag &&& 0x01FF &&& 0xFE01 ||| cfg.txDataTag &&& 0xFE00 := by
      rw [BitVec.and_or_distrib_left, BitVec.and_assoc]
    _ = cfg.txDataTag &&& 0x01FF ||| cfg.txDataTag &&& 0xFE00 := by rw [htag]; rfl
    _ = cfg.txDataTag := by rw [← BitVec.and_or_distrib_left]; exact BitVec.and_allOnes

/-- The byte field is outside the bits of the data-word form. -/
theorem byteField_and_form : ∀ x : Byte, x.setWidth 16 <<< 1 &&& (0xFE01 : Word) = 0 := by decide

theorem isDataForm_dataWord (htag : cfg.txDataTag &&& 0x01FF = 1) (x : Byte) :
    cfg.isDataForm (cfg.dataWord x) = true := by
  rw [Config.isDataForm, Config.dataWord, beq_iff_eq, BitVec.and_or_distrib_right,
    byteField_and_form, txDataTag_and_form htag]
  exact BitVec.zero_or

/-- The byte of a word put back in its place is the word's byte field. -/
theorem byteAt_shiftLeft (w : Word) : (byteAt 1 w).setWidth 16 <<< 1 = w &&& 0x01FE := by
  ext j hj
  interval_cases j <;> simp [byteAt]

/-- A word of the data-word form is the data word of the byte it carries. -/
theorem dataWord_byteAt (h : cfg.isDataForm w = true) : cfg.dataWord (byteAt 1 w) = w := by
  rw [Config.isDataForm, beq_iff_eq] at h
  rw [Config.dataWord, ← h, byteAt_shiftLeft, ← BitVec.and_or_distrib_left]
  exact BitVec.and_allOnes

/-! ## The delay range (R76) -/

theorem toNat_and_lowMask {k : Nat} (hk : k ≤ 16) (w : Word) :
    (w &&& lowMask k).toNat = w.toNat % 2 ^ k := by
  have hmask : (lowMask k).toNat = 2 ^ k - 1 :=
    Nat.mod_eq_of_lt (by have := Nat.pow_le_pow_right (n := 2) (by decide) hk; omega)
  rw [BitVec.toNat_and, hmask, Nat.and_two_pow_sub_one_eq_mod]

/-- The delay counts are the words with no bit outside the mask. -/
theorem and_lowMask_eq_self_iff {k : Nat} (hk : k ≤ 16) :
    n &&& lowMask k = n ↔ n.toNat < 2 ^ k := by
  rw [← BitVec.toNat_inj, toNat_and_lowMask hk, Nat.mod_eq_iff_lt (by positivity)]

theorem and_lowMask_lt {k : Nat} (hk : k ≤ 16) (w : Word) : (w &&& lowMask k).toNat < 2 ^ k :=
  (and_lowMask_eq_self_iff hk).1 (by rw [BitVec.and_assoc, BitVec.and_self])

/-- One bit of a delay word of the data-word form: base b, mask m, count n, form f, tag t. -/
theorem rangeBit_of_formBit : ∀ {b m n f t : Bool}, (b && m) = false → (n && m) = n →
    ((b || n) && f) = t → ((b ^^ t) && f && !m) = false := by decide

/-- One bit of the delay word whose count is the tag's bits inside the mask. -/
theorem formBit_of_rangeBit : ∀ {b m f t : Bool}, (b && m) = false → (t && f) = t →
    ((b ^^ t) && f && !m) = false → ((b || (t && m)) && f) = t := by decide

theorem getElem_congr {x y : Word} (h : x = y) {j : Nat} (hj : j < 16) : x[j] = y[j] := h ▸ rfl

/-- The check on the delay range fails just when some delay word has the data-word form. -/
theorem delayRangeClear_eq_false_iff (htag : cfg.txDataTag &&& 0x01FF = 1)
    (hbase : cfg.cwDelayBase &&& lowMask cfg.delayArgBits = 0) :
    cfg.delayRangeClear = false ↔ ∃ n : Word, n &&& lowMask cfg.delayArgBits = n ∧
      cfg.delayWord n &&& 0xFE01 = cfg.txDataTag := by
  rw [Config.delayRangeClear, bne_eq_false_iff_eq]
  constructor
  · intro hclear
    refine ⟨cfg.txDataTag &&& lowMask cfg.delayArgBits,
      by rw [BitVec.and_assoc, BitVec.and_self], ?_⟩
    ext j hj
    have hb := getElem_congr hbase hj
    have ht := getElem_congr (txDataTag_and_form htag) hj
    have hc := getElem_congr hclear hj
    simp only [BitVec.getElem_and, BitVec.getElem_xor, BitVec.getElem_not, BitVec.getElem_or,
      BitVec.ofNat_eq_ofNat, BitVec.getElem_zero, Config.delayWord] at *
    exact formBit_of_rangeBit hb ht hc
  · rintro ⟨n, hn, hform⟩
    ext j hj
    have hb := getElem_congr hbase hj
    have hn := getElem_congr hn hj
    have hf := getElem_congr hform hj
    simp only [BitVec.getElem_and, BitVec.getElem_xor, BitVec.getElem_not, BitVec.getElem_or,
      BitVec.ofNat_eq_ofNat, BitVec.getElem_zero, Config.delayWord] at *
    exact rangeBit_of_formBit hb hn hf

theorem delayRangeClear_iff (htag : cfg.txDataTag &&& 0x01FF = 1) (hk : cfg.delayArgBits ≤ 16)
    (hbase : cfg.cwDelayBase &&& lowMask cfg.delayArgBits = 0) :
    cfg.delayRangeClear = true ↔ ∀ n : Word, n.toNat < 2 ^ cfg.delayArgBits →
      cfg.delayWord n &&& 0xFE01 ≠ cfg.txDataTag := by
  rw [← Bool.not_eq_false, delayRangeClear_eq_false_iff htag hbase]
  simp only [and_lowMask_eq_self_iff hk, not_exists, not_and, ne_eq]

/-- Settles O7, bit by bit: where the check fails, the tag's own bits inside the mask are a count whose delay
word has the data-word form. -/
theorem delayRangeCheckIsExact : Obligations.DelayRangeCheckIsExact :=
  fun _ htag hk hbase => delayRangeClear_iff htag hk hbase

/-- No delay word has the data-word form (R76 (ii)). -/
theorem TransmitCodes.isDataForm_delayWord (h : TransmitCodes cfg)
    (hn : n.toNat < 2 ^ cfg.delayArgBits) : cfg.isDataForm (cfg.delayWord n) = false :=
  beq_eq_false_iff_ne.2 ((delayRangeClear_iff h.tag h.argBits h.base).1 h.clear n hn)

/-- A word is its bits inside a mask with those outside it. -/
theorem and_or_and_not (w m : Word) : w &&& m ||| w &&& ~~~m = w := by
  rw [← BitVec.and_or_distrib_left, BitVec.or_not_self, BitVec.and_allOnes]

theorem TransmitCodes.inDelayRange_delayWord (h : TransmitCodes cfg)
    (hn : n.toNat < 2 ^ cfg.delayArgBits) : cfg.inDelayRange (cfg.delayWord n) = true := by
  have hbase := and_or_and_not cfg.cwDelayBase (lowMask cfg.delayArgBits)
  rw [h.base] at hbase
  rw [Config.inDelayRange, Config.delayWord, beq_iff_eq, BitVec.and_or_distrib_right,
    ← (and_lowMask_eq_self_iff h.argBits).2 hn, BitVec.and_assoc, BitVec.and_not_self]
  simpa using hbase

theorem TransmitCodes.delayWord_and_lowMask (h : TransmitCodes cfg)
    (hn : n.toNat < 2 ^ cfg.delayArgBits) :
    cfg.delayWord n &&& lowMask cfg.delayArgBits = n := by
  rw [Config.delayWord, BitVec.and_or_distrib_right, h.base,
    (and_lowMask_eq_self_iff h.argBits).2 hn]
  exact BitVec.zero_or

/-- A word in the delay range is the delay word of its bits inside the mask. -/
theorem delayWord_of_inDelayRange (h : cfg.inDelayRange w = true) :
    cfg.delayWord (w &&& lowMask cfg.delayArgBits) = w := by
  rw [Config.inDelayRange, beq_iff_eq] at h
  rw [Config.delayWord, ← h, BitVec.or_comm, and_or_and_not]

/-! ## The reader of the transmit stream (R86) -/

theorem decodeTx_dataWord (hwf : cfg.wf = true) (x : Byte) :
    decodeTx cfg (cfg.dataWord x) = some (.txDataWord x) := by
  rw [decodeTx, if_pos (isDataForm_dataWord (Config.txDataTag_of_wf hwf) x), byteAt_dataWord hwf]

theorem TransmitCodes.decodeTx_delayWord (h : TransmitCodes cfg)
    (hn : n.toNat < 2 ^ cfg.delayArgBits) :
    decodeTx cfg (cfg.delayWord n) = some (.txDelayWord n) := by
  have hrange := h.inDelayRange_delayWord hn
  have hother : ∀ v, cfg.inDelayRange v = false → cfg.delayWord n ≠ v := by
    rintro v hv rfl
    simp [hrange] at hv
  simp [decodeTx, h.isDataForm_delayWord hn, hother _ h.triggerRange, hother _ h.eofRange,
    hother _ h.timestampRange, hrange, h.delayWord_and_lowMask hn]

/-- Whatever the reader classifies is that word, with a count in its range. -/
theorem fifoWord_of_decodeTx (hk : cfg.delayArgBits ≤ 16) (hd : decodeTx cfg w = some i) :
    fifoWord cfg i = w ∧ i.wf cfg = true := by
  unfold decodeTx at hd
  split_ifs at hd with hform htrigger heof htimestamp hrange <;> cases hd
  · simp [fifoWord, Instr.cmd, Instr.wf, dataWord_byteAt hform]
  · simp [fifoWord, Instr.cmd, Instr.wf, htrigger]
  · simp [fifoWord, Instr.cmd, Instr.wf, heof]
  · simp [fifoWord, Instr.cmd, Instr.wf, htimestamp]
  · exact ⟨by simp [fifoWord, Instr.cmd, delayWord_of_inDelayRange hrange],
      decide_eq_true (and_lowMask_lt hk w)⟩

/-- Settles O6: no form is taken for another, because the codes have not the data-word form, the delay words
neither (O7), and the control codes are apart and outside the delay range. -/
theorem transmitWordsAreClassified : Obligations.TransmitWordsAreClassified := by
  intro cfg hwf
  have h := Config.transmitCodes hwf
  refine ⟨decodeTx_dataWord hwf, fun n hn => h.decodeTx_delayWord hn, ?_, ?_, ?_, fun w i hd => fifoWord_of_decodeTx h.argBits hd⟩
  · simp [decodeTx, h.triggerForm]
  · simp [decodeTx, h.eofForm, h.triggerEof.symm]
  · simp [decodeTx, h.timestampForm, h.triggerTimestamp.symm, h.eofTimestamp.symm]

/-! ## The byte field (R75, R77, R82) -/

theorem byteAt_eq_extract (lsb : Nat) (w : Word) : byteAt lsb w = w.extractLsb' lsb 8 :=
  BitVec.setWidth_ushiftRight_eq_extractLsb

/-- `byte_of` on a receive buffer depends on the byte field alone. -/
theorem byteAt_congr {lsb : Nat} {w' : Word}
    (h : ∀ k, k < 8 → w'.getLsbD (lsb + k) = w.getLsbD (lsb + k)) : byteAt lsb w' = byteAt lsb w := by
  ext k hk
  simpa [byteAt_eq_extract] using h k hk

/-- Above the byte field a data word is its tag. -/
theorem extract_dataWord_above (cfg : Config) (x : Byte) :
    (cfg.dataWord x).extractLsb' 9 7 = cfg.txDataTag.extractLsb' 9 7 := by
  have hbyte : ∀ x : Byte, (x.setWidth 16 <<< 1 : Word).extractLsb' 9 7 = 0 := by decide
  rw [Config.dataWord, BitVec.extractLsb'_or, hbyte]
  exact BitVec.zero_or

/-- Bit 0 of a data word is the tag's, which is set. -/
theorem getLsbD_zero_dataWord (htag : cfg.txDataTag &&& 0x01FF = 1) (x : Byte) :
    (cfg.dataWord x).getLsbD 0 = true := by
  have hbit := congrArg (BitVec.getLsbD · 0) htag
  simp only [BitVec.getLsbD_and] at hbit
  simp [Config.dataWord, Bool.and_eq_true_iff.1 hbit]

/-- Settles O8, field by field. -/
theorem wordsCarryBytesByPosition : Obligations.WordsCarryBytesByPosition := by
  intro cfg hwf
  refine ⟨fun x => ⟨rfl, ?_, getLsbD_zero_dataWord (Config.txDataTag_of_wf hwf) x,
    extract_dataWord_above cfg x, byteAt_dataWord hwf x⟩,
    fun w => ⟨byteAt_eq_extract 1 w, byteAt_eq_extract _ w⟩, fun _ _ => byteAt_congr⟩
  rw [← byteAt_eq_extract, byteAt_dataWord hwf]

/-! ## The FIFO words on the command port (R80 (a), log 1) -/

/-- As a CMD word a FIFO word is the low half. -/
theorem cmd_of_not_isCommand (hi : i.isCommand = false) (cfg : Config) :
    i.cmd cfg = (fifoWord cfg i).setWidth 32 := by
  cases i
  case txDataWord | txDelayWord | txTriggerWord | txEofWord | txTimestampWord | rxLengthWord
  | rxTimestampWord | rxDataWord => simp [fifoWord, Instr.cmd]
  all_goals cases hi

theorem exec_of_not_isCommand (hi : i.isCommand = false) (s : State) :
    exec i s = notACommand (i.cmd s.cfg) s := by
  cases i
  case txDataWord | txDelayWord | txTriggerWord | txEofWord | txTimestampWord | rxLengthWord
  | rxTimestampWord | rxDataWord => rfl
  all_goals cases hi

/-- The opcode of a CMD word with nothing in its high half is 0. -/
theorem op_of_low_half (v : Word) (a : DWord) (bs : List Byte) :
    Transaction.op ⟨v.setWidth 32, a, bs⟩ = 0 := by
  ext j hj
  simp [Transaction.op, BitVec.getLsbD_of_ge v (24 + j) (by omega)]

/-- Opcode 0 is not in R79's table. -/
theorem decode_of_op_zero {t : Transaction} (hop : t.op = 0) : decode t = none := by
  by_cases hbytes : t.bytes = [] <;> simp [decode, decodePlain, hop, hbytes]

end

/-- Settles O59: a FIFO word leaves the opcode field 0, and its arm of the dispatch is `notACommand`. -/
theorem fifoWordsAreNoCommands : Obligations.FifoWordsAreNoCommands := by
  intro s x n hf i hmem
  have hi : i.isCommand = false := by
    simp only [List.mem_cons, List.not_mem_nil, or_false] at hmem
    obtain rfl | rfl | rfl | rfl | rfl | rfl | rfl | rfl := hmem <;> rfl
  have hcmd := cmd_of_not_isCommand hi s.cfg
  constructor
  · rw [encode, hcmd]
    exact decode_of_op_zero (op_of_low_half ..)
  · rw [exec_of_not_isCommand hi, notACommand_of_safe hf, State.raise_of_safe hf, hcmd]
    rfl

end Sys2Proof.Machine
end

section
/-! The FRAME sequence: the frame start, the bytes, the CRC over them, the end-of-frame word
(30_encoding.md R85, 40_crc.md R102, R103, 41_frame_encoder.md R122, R128, R131, R133). -/

namespace Sys2Proof.Machine

open Sys2Proof

/-! ## The CRC of a frame (R102, R103) -/

/-- The frame of the bytes xs: xs and their CRC, low byte first. -/
def framed (xs : List Byte) : List Byte := xs ++ bytesCrc (crc16 xs)

theorem framed_length (xs : List Byte) : (framed xs).length = xs.length + 2 := by
  simp [framed, bytesCrc]

/-- A CRC as a number is that of its bytes, the low byte first (R54). -/
theorem toNat_eq_bytes (c : Word) :
    c.toNat = (c.extractLsb' 0 8).toNat + 2 ^ 8 * (c.extractLsb' 8 8).toNat := by
  simp [BitVec.extractLsb'_toNat, Nat.shiftRight_eq_div_pow]
  omega

/-- Bytes with their CRC are CRC-valid. -/
theorem crcValid_framed (xs : List Byte) : CrcValid (framed xs) := by
  have hlen := framed_length xs
  refine ⟨by omega, ?_⟩
  rw [hlen, Nat.add_sub_cancel]
  simpa [framed, bytesCrc] using toNat_eq_bytes (crc16 xs)

section
variable {s : State} {b : BufId} {xs : List Byte}

/-! ## Running the sequence (R62) -/

theorem State.appended_nil (s : State) (b : BufId) : s.appended b [] = s :=
  calc s.appended b []
    _ = s.setBuf b { s.buf b with widx := BitVec.ofNat 16 (s.buf b).widx.toNat } := rfl
    _ = s.setBuf b (s.buf b) := by rw [BitVec.ofNat_toNat, BitVec.setWidth_eq]
    _ = s := s.setBuf_buf b

/-- The bytes written one by one store what one write of all their data words would. -/
theorem runAll_writeU8s (is : List Instr) (hf : s.fatal = false) (hcap : s.cfg.capWords ≤ 65535)
    (room : (s.buf b).widx.toNat + xs.length ≤ s.cfg.capWords) :
    runAll (xs.map (.writeU8 b) ++ is) s = runAll is (s.appended b (xs.map s.cfg.dataWord)) := by
  induction xs generalizing s with
  | nil => rw [List.map_nil, List.map_nil, State.appended_nil]; rfl
  | cons x xs ih =>
    rw [List.length_cons] at room
    have hnowrap : (s.buf b).widx.toNat + [s.cfg.dataWord x].length < 2 ^ 16 := by simp; omega
    have hwrite : exec (.writeU8 b x) s = .next (s.appended b [s.cfg.dataWord x]) :=
      exec_write hf rfl rfl (by simp; omega)
    rw [List.map_cons, List.cons_append, runAll_cons hwrite,
      ih (by simpa using hf) (by simpa using hcap) (by rw [State.appended_widx hnowrap]; simp; omega),
      State.appended_cfg, State.appended_appended hnowrap]
    rfl

/-- MARK_START_OF_FRAME leaves FSTART_b at the write cursor (R133). -/
def State.frameStarted (s : State) (b : BufId) : State :=
  s.setBuf b { s.buf b with fstart := (s.buf b).widx }

@[simp] theorem State.frameStarted_cfg : (s.frameStarted b).cfg = s.cfg := State.setBuf_cfg ..
@[simp] theorem State.frameStarted_fatal : (s.frameStarted b).fatal = s.fatal := State.setBuf_fatal ..
@[simp] theorem State.buf_frameStarted :
    (s.frameStarted b).buf b = { s.buf b with fstart := (s.buf b).widx } := State.buf_setBuf_same ..

theorem exec_markStartOfFrame (hf : s.fatal = false) :
    exec (.markStartOfFrame b) s = .next (s.frameStarted b) := by
  rw [exec, execMarkStartOfFrame, command_of_legal hf rfl, State.frameStarted]

/-- The bytes that WRITE_CRC covers after data words were written from the frame start on. -/
theorem State.frameBytes_appended (hwf : s.cfg.wf = true) (hk : b.kind = .tx)
    (hstart : (s.buf b).fstart = (s.buf b).widx)
    (hnowrap : (s.buf b).widx.toNat + (xs.map s.cfg.dataWord).length < 2 ^ 16) :
    (s.appended b (xs.map s.cfg.dataWord)).frameBytes b =
      (xs, (s.appended b (xs.map s.cfg.dataWord)).draws) := by
  have hid : s.cfg.byteOf b.kind ∘ s.cfg.dataWord = id := funext (byteOf_dataWord hwf (.inl hk))
  have hfirst : ((s.appended b (xs.map s.cfg.dataWord)).buf b).fstart = (s.buf b).widx := by
    simp [hstart]
  rw [State.frameBytes, hfirst, State.appended_widx hnowrap, Nat.add_sub_cancel_left,
    State.bytesAt_of_holds State.appended_holds, State.appended_cfg, List.map_map, hid, List.map_id]

/-- WRITE_CRC over written words, which takes no draw. -/
theorem exec_writeCrc_of_frameBytes (hf : s.fatal = false)
    (room : (s.buf b).widx.toNat + 2 ≤ s.cfg.capWords) (hframe : s.frameBytes b = (xs, s.draws)) :
    exec (.writeCrc b) s = .next (s.appended b ((bytesCrc (crc16 xs)).map s.cfg.dataWord)) := by
  rw [exec_writeCrc hf room, hframe]

/-- WRITE_CRC after those data words completes the frame. -/
theorem exec_writeCrc_appended (hwf : s.cfg.wf = true) (hk : b.kind = .tx) (hf : s.fatal = false)
    (hstart : (s.buf b).fstart = (s.buf b).widx) (hcap : s.cfg.capWords ≤ 65535)
    (room : (s.buf b).widx.toNat + xs.length + 2 ≤ s.cfg.capWords) :
    exec (.writeCrc b) (s.appended b (xs.map s.cfg.dataWord)) =
      .next (s.appended b ((framed xs).map s.cfg.dataWord)) := by
  have hnowrap : (s.buf b).widx.toNat + (xs.map s.cfg.dataWord).length < 2 ^ 16 := by simp; omega
  rw [exec_writeCrc_of_frameBytes (by simpa using hf) _
      (State.frameBytes_appended hwf hk hstart hnowrap),
    State.appended_cfg, State.appended_appended hnowrap, framed, List.map_append]
  rw [State.appended_widx hnowrap, List.length_map]
  simpa using room

/-- From the frame start on the sequence stores the framed bytes and the end-of-frame word. -/
theorem runAll_frameBody (hwf : s.cfg.wf = true) (hk : b.kind = .tx) (hf : s.fatal = false)
    (hstart : (s.buf b).fstart = (s.buf b).widx) (hcap : s.cfg.capWords ≤ 65535)
    (room : (s.buf b).widx.toNat + xs.length + 3 ≤ s.cfg.capWords) :
    runAll (xs.map (.writeU8 b) ++ [.writeCrc b, .markEndOfFrame b]) s =
      .next (s.appended b ((framed xs).map s.cfg.dataWord ++ [s.cfg.cwEof])) := by
  have hnowrap : (s.buf b).widx.toNat + ((framed xs).map s.cfg.dataWord).length < 2 ^ 16 := by
    rw [List.length_map, framed_length]
    omega
  have heof : exec (.markEndOfFrame b) (s.appended b ((framed xs).map s.cfg.dataWord)) = _ :=
    exec_write (by simpa using hf) rfl rfl
      (by rw [State.appended_widx hnowrap, List.length_map, framed_length]; simp; omega)
  rw [runAll_writeU8s _ hf hcap (by omega),
    runAll_cons (exec_writeCrc_appended hwf hk hf hstart hcap (by omega)), runAll_singleton, heof,
    State.appended_cfg, State.appended_appended hnowrap]

theorem Config.capWords_le {cfg : Config} (h : cfg.wf = true) : cfg.capWords ≤ 65535 := by
  simp only [Config.wf, Bool.and_eq_true, decide_eq_true_eq] at h
  tauto

/-- The state after the whole sequence. -/
def State.withFrame (s : State) (b : BufId) (xs : List Byte) : State :=
  (s.frameStarted b).appended b ((framed xs).map s.cfg.dataWord ++ [s.cfg.cwEof])

/-- The FRAME sequence with room runs to its end. -/
theorem runAll_pseudoFrame (hwf : s.cfg.wf = true) (hk : b.kind = .tx) (hf : s.fatal = false)
    (room : (s.buf b).widx.toNat + xs.length + 3 ≤ s.cfg.capWords) :
    runAll (pseudoFrame b xs) s = .next (s.withFrame b xs) := by
  have hbody := runAll_frameBody (s := s.frameStarted b) (b := b) (xs := xs) (by simpa using hwf) hk
    (by simpa using hf) (by simp) (by simpa using Config.capWords_le hwf) (by simpa using room)
  rw [State.frameStarted_cfg] at hbody
  exact (runAll_cons (exec_markStartOfFrame hf)).trans hbody

theorem State.withFrame_holds (s : State) (b : BufId) (xs : List Byte) :
    (s.withFrame b xs).Holds b (s.buf b).widx.toNat
      ((framed xs).map s.cfg.dataWord ++ [s.cfg.cwEof]) := by
  have hholds := State.appended_holds (s := s.frameStarted b) (b := b)
    (ws := (framed xs).map s.cfg.dataWord ++ [s.cfg.cwEof])
  rwa [State.buf_frameStarted] at hholds

theorem State.withFrame_widx {s : State} {b : BufId} {xs : List Byte}
    (h : (s.buf b).widx.toNat + xs.length + 3 < 2 ^ 16) :
    ((s.withFrame b xs).buf b).widx.toNat = (s.buf b).widx.toNat + xs.length + 3 := by
  rw [State.withFrame, State.appended_widx] <;>
    simp only [State.buf_frameStarted, List.length_append, List.length_map, framed_length,
      List.length_singleton] <;> omega

theorem State.withFrame_fstart (s : State) (b : BufId) (xs : List Byte) :
    ((s.withFrame b xs).buf b).fstart = (s.buf b).widx := by
  simp [State.withFrame]

theorem State.withFrame_fatal (s : State) (b : BufId) (xs : List Byte) :
    (s.withFrame b xs).fatal = s.fatal := by simp [State.withFrame]

end

/-- Settles O23: the bytes one by one, by induction, then the CRC over them, which the words just written give
without a draw, then the end-of-frame word. -/
theorem builtFrameIsCrcValid : Obligations.BuiltFrameIsCrcValid := by
  intro s sn xs hwf hf room
  have hnowrap : (s.tx.get sn).widx.toNat + xs.length + 3 < 2 ^ 16 := by
    have hcap := Config.capWords_le hwf
    omega
  exact ⟨s.withFrame ⟨.tx, sn⟩ xs, framed xs, runAll_pseudoFrame hwf rfl hf room, framed_length xs,
    List.take_left, crcValid_framed xs, s.withFrame_holds ⟨.tx, sn⟩ xs,
    State.withFrame_widx (s := s) (b := ⟨.tx, sn⟩) hnowrap, s.withFrame_fstart ⟨.tx, sn⟩ xs,
    (s.withFrame_fatal ⟨.tx, sn⟩ xs).trans hf⟩

end Sys2Proof.Machine
end

section
/-! The CRC-16 generator: its shift is linear and injective, so a body's CRC appended low byte first brings
the generator to 0, and a frame with one byte changed does not (40_crc.md R100, R102 to R106). -/

namespace Sys2Proof.Machine

open Sys2Proof

/-! ## The shift (R100) -/

/-- The shift as one XOR: the generator goes in just when bit 0 goes out. -/
theorem crcShift_eq (c : Word) : crcShift c = c >>> 1 ^^^ bif c.getLsbD 0 then 0xA001 else 0 := by
  unfold crcShift
  cases c.getLsbD 0 <;> simp

theorem crcShift_of_even {c : Word} (h : c.getLsbD 0 = false) : crcShift c = c >>> 1 := by
  rw [crcShift_eq, h]
  exact BitVec.xor_zero

@[simp] theorem crcShift_zero : crcShift 0 = 0 := rfl

/-- The shift is linear. -/
theorem crcShift_xor (c d : Word) : crcShift (c ^^^ d) = crcShift c ^^^ crcShift d := by
  have hfeedback : ∀ p q : Bool, (bif xor p q then (0xA001 : Word) else 0) =
      (bif p then 0xA001 else 0) ^^^ bif q then 0xA001 else 0 := by decide
  rw [crcShift_eq, crcShift_eq c, crcShift_eq d, BitVec.getLsbD_xor, hfeedback,
    BitVec.ushiftRight_xor_distrib]
  ac_rfl

/-- The generator's bit 15 is set, so the top bit of a shifted word tells which bit went out. -/
theorem getLsbD_crcShift_top (c : Word) : (crcShift c).getLsbD 15 = c.getLsbD 0 := by
  rw [crcShift_eq]
  cases c.getLsbD 0 <;> simp

/-- The shift loses nothing. -/
theorem crcShift_eq_zero_iff {c : Word} : crcShift c = 0 ↔ c = 0 := by
  refine ⟨fun h => ?_, fun h => h ▸ crcShift_zero⟩
  have hlow : c.getLsbD 0 = false := by simpa [h] using (getLsbD_crcShift_top c).symm
  have hrest : c >>> 1 = 0 := by rwa [crcShift_of_even hlow] at h
  ext i hi
  cases i with
  | zero => simpa using hlow
  | succ i => simpa [Nat.add_comm, hi] using congrArg (BitVec.getLsbD · i) hrest

theorem crcShift_injective : Function.Injective crcShift := fun c d h =>
  BitVec.xor_eq_zero_iff.1 (crcShift_eq_zero_iff.1 (by rw [crcShift_xor, h, BitVec.xor_self]; rfl))

/-! ## A run of shifts, and one byte (R100) -/

theorem iterate_crcShift_xor (k : Nat) (c d : Word) :
    crcShift^[k] (c ^^^ d) = crcShift^[k] c ^^^ crcShift^[k] d :=
  Function.Semiconj₂.iterate crcShift_xor k c d

theorem iterate_crcShift_eq_zero_iff (k : Nat) {c : Word} : crcShift^[k] c = 0 ↔ c = 0 :=
  (crcShift_injective.iterate k).eq_iff' (Function.iterate_fixed crcShift_zero k)

theorem crcByte_eq_iterate (c : Word) (x : Byte) :
    crcByte c x = crcShift^[8] (c ^^^ x.setWidth 16) := rfl

/-- A byte in the upper half comes down by k ≤ 8 shifts with no generator going in. -/
theorem iterate_crcShift_shiftLeft (x : Byte) {k : Nat} (hk : k ≤ 8) :
    crcShift^[k] (x.setWidth 16 <<< k) = x.setWidth 16 := by
  induction k with
  | zero => simp
  | succ k ih =>
    have hshift : crcShift (x.setWidth 16 <<< (k + 1)) = x.setWidth 16 <<< k := by
      rw [crcShift_of_even (by simp)]
      ext i hi
      simp
      grind
    rw [Function.iterate_succ_apply, hshift, ih (by omega)]

/-- Two bytes, low byte first, go in as the word they make (R54). -/
theorem crcByte_crcByte (c : Word) (lo hi : Byte) :
    crcByte (crcByte c lo) hi = crcShift^[16] (c ^^^ (hi ++ lo)) := by
  have hword : hi ++ lo = lo.setWidth 16 ^^^ hi.setWidth 16 <<< 8 := by
    ext i hlt
    simp
    grind
  calc crcByte (crcByte c lo) hi
    _ = crcShift^[8] (crcShift^[8] (c ^^^ lo.setWidth 16) ^^^ hi.setWidth 16) := by
      rw [crcByte_eq_iterate, crcByte_eq_iterate]
    _ = crcShift^[8] (crcShift^[8] (c ^^^ lo.setWidth 16) ^^^ crcShift^[8] (hi.setWidth 16 <<< 8)) := by
      rw [iterate_crcShift_shiftLeft hi le_rfl]
    _ = crcShift^[16] (c ^^^ (hi ++ lo)) := by
      rw [← iterate_crcShift_xor, hword, BitVec.xor_assoc, ← Function.iterate_add_apply]

theorem crcByte_injective_left (x : Byte) : Function.Injective (crcByte · x) := fun _ _ h =>
  (BitVec.xor_left_inj _).1 (crcShift_injective.iterate 8 h)

theorem crcByte_injective_right (c : Word) : Function.Injective (crcByte c) := fun x y h => by
  have hwide := (BitVec.xor_right_inj _).1 (crcShift_injective.iterate 8 h)
  simpa using congrArg (BitVec.setWidth 8) hwide

/-! ## The CRC of a list (R102, R103) -/

theorem foldl_crcByte_injective (xs : List Byte) : Function.Injective (xs.foldl crcByte) := by
  induction xs with
  | nil => exact fun _ _ h => h
  | cons x xs ih => exact fun _ _ h => crcByte_injective_left x (ih h)

theorem crc16_append_pair_eq_zero_iff (xs : List Byte) (lo hi : Byte) :
    crc16 (xs ++ [lo, hi]) = 0 ↔ crc16 xs = hi ++ lo := by
  have happend : crc16 (xs ++ [lo, hi]) = crcByte (crcByte (crc16 xs) lo) hi := by simp [crc16]
  rw [happend, crcByte_crcByte, iterate_crcShift_eq_zero_iff]
  exact BitVec.xor_eq_zero_iff

theorem toNat_append_bytes (lo hi : Byte) : (hi ++ lo).toNat = lo.toNat + 2 ^ 8 * hi.toNat := by
  rw [BitVec.toNat_append, ← Nat.shiftLeft_add_eq_or_of_lt lo.isLt, Nat.shiftLeft_eq]
  omega

theorem crcValid_append_pair_iff (xs : List Byte) (lo hi : Byte) :
    CrcValid (xs ++ [lo, hi]) ↔ crc16 xs = hi ++ lo := by
  rw [← BitVec.toNat_inj, toNat_append_bytes]
  simp [CrcValid]

theorem crcOk_append_pair_iff (xs : List Byte) (lo hi : Byte) :
    crcOk (xs ++ [lo, hi]) = true ↔ crc16 xs = hi ++ lo := by
  simp [crcOk, u16le]

theorem exists_append_pair {xs : List Byte} (h : 2 ≤ xs.length) :
    ∃ ys lo hi, xs = ys ++ [lo, hi] := by
  obtain ⟨lo, hi, hpair⟩ := List.length_eq_two.1 (show (xs.drop (xs.length - 2)).length = 2 by
    rw [List.length_drop]; omega)
  exact ⟨_, lo, hi, by rw [← hpair, List.take_append_drop]⟩

/-- A frame is CRC-valid just when the CRC over all of it is 0 (R103). -/
theorem crcValid_iff_crc16_eq_zero {xs : List Byte} (h : 2 ≤ xs.length) :
    CrcValid xs ↔ crc16 xs = 0 := by
  obtain ⟨ys, lo, hi, rfl⟩ := exists_append_pair h
  rw [crcValid_append_pair_iff, crc16_append_pair_eq_zero_iff]

/-- The parser's check is CRC-validity (R103, R185). -/
theorem crcOk_iff_crcValid {xs : List Byte} (h : 2 ≤ xs.length) : crcOk xs = true ↔ CrcValid xs := by
  obtain ⟨ys, lo, hi, rfl⟩ := exists_append_pair h
  rw [crcOk_append_pair_iff, crcValid_append_pair_iff]

/-- Settles O31: the CRC over a frame is 16 shifts of the body's CRC XORed with the last two bytes, and no
word but 0 is shifted to 0. -/
theorem crcAppendedFrameIsValid : Obligations.CrcAppendedFrameIsValid :=
  ⟨crcValid_framed, fun _ => crcValid_iff_crc16_eq_zero, fun _ => crcOk_iff_crcValid⟩

/-! ## Errors within one byte (R104) -/

/-- A change of one byte changes the CRC. -/
theorem crc16_ne_of_byte_ne {x y : Byte} (h : x ≠ y) (xs ys : List Byte) :
    crc16 (xs ++ x :: ys) ≠ crc16 (xs ++ y :: ys) := fun heq => by
  simp only [crc16, List.foldl_append, List.foldl_cons] at heq
  exact h (crcByte_injective_right _ (foldl_crcByte_injective ys heq))

theorem xor_twoPow_ne {j : Nat} (hj : j < 8) (x : Byte) : x ≠ x ^^^ BitVec.twoPow 8 j := fun h => by
  simpa [hj] using congrArg (BitVec.getLsbD · j) h

theorem length_flipBit (xs : List Byte) (k j : Nat) : (flipBit xs k j).length = xs.length :=
  List.length_modify ..

theorem crc16_flipBit_ne {xs : List Byte} {k j : Nat} (hk : k < xs.length) (hj : j < 8) :
    crc16 xs ≠ crc16 (flipBit xs k j) := by
  have hsplit : xs = xs.take k ++ xs[k] :: xs.drop (k + 1) := by simp
  have hflip : flipBit xs k j =
      xs.take k ++ (xs[k] ^^^ BitVec.twoPow 8 j) :: xs.drop (k + 1) := by
    rw [flipBit, List.modify_eq_take_cons_drop hk]
  rw [hflip]
  conv_lhs => rw [hsplit]
  exact crc16_ne_of_byte_ne (xor_twoPow_ne hj _) _ _

/-- Settles O32: a flipped bit changes the CRC over the whole frame, which is 0 for a valid one. -/
theorem singleBitErrorIsDetected : Obligations.SingleBitErrorIsDetected := by
  intro xs k j hvalid hk hj hflipped
  have hlen : 2 ≤ xs.length := hvalid.1
  have hlen' : 2 ≤ (flipBit xs k j).length := (length_flipBit xs k j).symm ▸ hlen
  rw [crcValid_iff_crc16_eq_zero hlen] at hvalid
  rw [crcValid_iff_crc16_eq_zero hlen'] at hflipped
  exact crc16_flipBit_ne hk hj (hvalid.trans hflipped.symm)

/-! ## The reference vector (R106) -/

theorem crc16_referenceVector : crc16 [0x01, 0x03, 0x00, 0x00, 0x00, 0x0A] = 0xCDC5 := by
  decide +kernel

theorem bytesCrc_referenceVector :
    bytesCrc (crc16 [0x01, 0x03, 0x00, 0x00, 0x00, 0x0A]) = [0xC5, 0xCD] := by
  rw [crc16_referenceVector]
  decide

/-- Settles O30: the full frame is the vector framed with its CRC. -/
theorem crcOfTheReferenceVector : Obligations.CrcOfTheReferenceVector := by
  refine ⟨crc16_referenceVector, bytesCrc_referenceVector, ?_⟩
  have hvalid := crcValid_framed [0x01, 0x03, 0x00, 0x00, 0x00, 0x0A]
  rwa [framed, bytesCrc_referenceVector] at hvalid

end Sys2Proof.Machine
end

section
/-! The commands that use the CRC: COMPUTE_CRC16 returns that of a range, WRITE_CRC appends that of the frame
so far; and the capacity checks of COMPUTE_CRC16 and SET_INDEX (40_crc.md R102, R105, 41_frame_encoder.md
R120, R128, R135). -/

namespace Sys2Proof.Machine

open Sys2Proof

/-- The CRC of no bytes is the initial value (R100, R102). -/
theorem crc16_nil : crc16 [] = 0xFFFF := rfl

/-- An empty range has no bytes and takes no draw. -/
theorem State.bytesAt_zero (s : State) (b : BufId) (i : Nat) : s.bytesAt b i 0 = ([], s.draws) := rfl

section
variable {s : State} {b : BufId} {ws : List Word}

/-! ## COMPUTE_CRC16 and SET_INDEX (R105, R135) -/

theorem exec_computeCrc16 {st n : Word} (hf : s.fatal = false)
    (room : st.toNat + n.toNat ≤ s.cfg.capWords) :
    exec (.computeCrc16 b st n) s =
      .next { s with
        draws := (s.bytesAt b st.toNat n.toNat).2
        result := (crc16 (s.bytesAt b st.toNat n.toNat).1).setWidth 32 } := by
  rw [exec, execComputeCrc16, command_of_legal hf rfl, if_neg (by omega), State.withResult]

theorem exec_computeCrc16_of_beyond {st n : Word} (hf : s.fatal = false)
    (h : s.cfg.capWords < st.toNat + n.toNat) :
    exec (.computeCrc16 b st n) s =
      .next (s.raise .bufferOverflow ((Instr.computeCrc16 b st n).cmd s.cfg)) := by
  rw [exec, execComputeCrc16, command_of_legal hf rfl, if_pos h]

theorem exec_setIndex_of_beyond {sel : Cursor} {v : Word} (hf : s.fatal = false)
    (h : s.cfg.capWords < v.toNat) :
    exec (.setIndex b sel v) s =
      .next (s.raise .bufferOverflow ((Instr.setIndex b sel v).cmd s.cfg)) := by
  rw [exec, execSetIndex, command_of_legal hf rfl, if_pos h]

/-! ## What an appending write leaves as it was (R120) -/

theorem State.appended_draws : (s.appended b ws).draws = s.draws := State.setBuf_draws ..

theorem State.appended_word?_outside {k : Nat}
    (h : k < (s.buf b).widx.toNat ∨ (s.buf b).widx.toNat + ws.length ≤ k) :
    (s.appended b ws).word? b k = s.word? b k := by
  rw [State.word?, State.buf_appended]
  exact Memory.word?_storeAll_outside _ ws h

end

/-! ## The statements -/

/-- Settles O28: each range check raises before its command does anything else. -/
theorem rangeBeyondCapacityIsFatal : Obligations.RangeBeyondCapacityIsFatal := by
  intro s b c v n hf
  refine ⟨fun h => ?_, fun h => ?_⟩
  · rw [exec_setIndex_of_beyond hf h, State.raise_of_safe hf, Cause.code]
  · rw [exec_computeCrc16_of_beyond hf h, State.raise_of_safe hf, Cause.code]

/-- Settles O29: words that stand in the range give their own bytes, and an empty range gives none. -/
theorem computeCrcReturnsTheRangeCrc : Obligations.ComputeCrcReturnsTheRangeCrc := by
  intro s b st n hf room
  refine ⟨_, (s.bytesAt b st.toNat n.toNat).1, exec_computeCrc16 hf room, rfl, rfl, ?_, ?_, rfl⟩
  · intro ws hholds hn
    rw [hn, State.bytesAt_of_holds hholds]
    exact ⟨BitVec.toNat_setWidth_of_le (by decide), rfl⟩
  · rintro rfl
    exact congrArg (BitVec.setWidth 32) crc16_nil

/-- Settles O22: `exec_writeCrc` is an appending write of the two CRC words after the draws of the range. -/
theorem writeCrcAppendsTheFrameCrc : Obligations.WriteCrcAppendsTheFrameCrc := by
  intro s b hwf hf room
  have hnowrap : (s.buf b).widx.toNat + 2 < 2 ^ 16 := by
    have hcap := Config.capWords_le hwf
    omega
  refine ⟨_, (s.frameBytes b).1, _, exec_writeCrc hf room, ?range, rfl, ?written, ?empty,
    State.appended_holds, State.appended_widx hnowrap, fun _ h => State.appended_word?_outside h,
    ?ridx, ?len, ?fstart, State.setBuf_otherBuffersSame _ b _, ?frame⟩
  case range => rw [State.appended_draws, State.frameBytes]
  case written =>
    intro ws hholds hn
    rw [State.appended_draws, State.frameBytes, hn, State.bytesAt_of_holds hholds]
    exact ⟨rfl, rfl⟩
  case empty =>
    intro h
    rw [State.frameBytes, Nat.sub_eq_zero_of_le h, State.bytesAt_zero, crc16_nil]
  case frame =>
    rw [State.appended_draws]
    exact State.setBuf_sameButBuffers ..
  all_goals rw [State.buf_appended, State.buf_withDraws]

end Sys2Proof.Machine
end

section
/-! The commands on a buffer's cursors, length and frame start: what they read, what they set, and SET_LENGTH
from its CMD word (41_frame_encoder.md R133 to R138). -/

namespace Sys2Proof.Machine

open Sys2Proof

section
variable {s : State} {b : BufId} {v : Word}

/-! ## What each command comes to -/

theorem exec_getIndex (sel : Cursor) (hf : s.fatal = false) :
    exec (.getIndex b sel) s = .next (s.withResult (((s.buf b).cursor sel).setWidth 32)) := by
  rw [exec, execGetIndex, command_of_legal hf rfl]

theorem exec_getLength (hf : s.fatal = false) :
    exec (.getLength b) s = .next (s.withResult ((s.buf b).len.setWidth 32)) := by
  rw [exec, execGetLength, command_of_legal hf rfl]

theorem exec_setIndex (sel : Cursor) (hf : s.fatal = false) (hv : v.toNat ≤ s.cfg.capWords) :
    exec (.setIndex b sel v) s = .next (s.setBuf b ((s.buf b).setCursor sel v)) := by
  rw [exec, execSetIndex, command_of_legal hf rfl, if_neg (by omega)]

theorem exec_setLength_of_beyond (hf : s.fatal = false) (h : s.cfg.capWords < v.toNat) :
    exec (.setLength b v) s =
      .next (s.raise .bufferOverflow ((Instr.setLength b v).cmd s.cfg)) := by
  rw [exec, execSetLength, command_of_legal hf rfl, if_pos h]

theorem exec_clear (hf : s.fatal = false) :
    exec (.clear b) s =
      .next (s.setBuf b { s.buf b with widx := 0, ridx := 0, len := 0, fstart := 0 }) := by
  rw [exec, execClear, command_of_legal hf rfl]

/-- A command that replaces one buffer changes nothing else. -/
theorem exec_setBuf_frame {i : Instr} {x : Buffer} (h : exec i s = .next (s.setBuf b x)) :
    ∃ t, exec i s = .next t ∧ t.buf b = x ∧ OtherBuffersSame b s t ∧ SameButBuffers s t :=
  ⟨_, h, s.buf_setBuf_same b x, s.setBuf_otherBuffersSame b x, s.setBuf_sameButBuffers b x⟩

/-! ## The CMD word of SET_LENGTH (R79, R136) -/

/-- The decoder's arm of op 0x22 (R79). -/
theorem decode_of_op_setLength {t : Transaction} (hop : t.op = 0x22) :
    decode t = if t.bytes = [] then onBufImm t .setLength else none := by
  simp [decode, decodePlain, hop]

/-- A legal CMD word of this row names a buffer and carries the length in `imm`. -/
theorem decode_setLength {t : Transaction} (cfg : Config) (hop : t.op = 0x22)
    (hlegal : illegalCommand cfg t = false) :
    ∃ b, bufOfCode t.buf = some b ∧ decode t = some (.setLength b t.imm) ∧
      (Instr.setLength b t.imm).cmd cfg = t.cmd := by
  obtain ⟨i, hd, -, -⟩ := legalCommandDecodes cfg t hlegal
  obtain ⟨-, -, b, hb, rfl⟩ : t.bytes = [] ∧ t.sub = 0 ∧
      ∃ b, bufOfCode t.buf = some b ∧ Instr.setLength b t.imm = i := by
    simpa [decode_of_op_setLength hop, onBufImm] using hd
  exact ⟨b, hb, hd, (carries_of_decode cfg hd).cmd⟩

end

/-! ## The statements -/

/-- Settles O25: the two reads write RESULT alone. -/
theorem cursorReadsReturnThem : Obligations.CursorReadsReturnThem := fun _ _ hf =>
  ⟨exec_getIndex .write hf, exec_getIndex .read hf, exec_getLength hf⟩

/-- Settles O26: each of the commands replaces its buffer. -/
theorem cursorWritesSetThem : Obligations.CursorWritesSetThem := fun _ _ _ hf =>
  ⟨fun hv => exec_setBuf_frame (exec_setIndex .write hf hv),
    fun hv => exec_setBuf_frame (exec_setIndex .read hf hv),
    fun hv => exec_setBuf_frame (exec_setLength hf hv),
    exec_setBuf_frame (exec_markStartOfFrame hf), exec_setBuf_frame (exec_clear hf)⟩

/-- Settles O27: R80 decides first; a legal word decodes, and then CAP_WORDS decides. -/
theorem setLengthFollowsItsRule : Obligations.SetLengthFollowsItsRule := by
  intro s t rest hwf hf hin hop
  have hf' : State.fatal { s with inputs := rest } = false := hf
  refine ⟨illegalCommandTakesFatalFault s t rest hwf hf hin, fun hlegal hbeyond => ?_,
    fun hlegal hv => ?_⟩
  · obtain ⟨b, -, hd, hcmd⟩ := decode_setLength s.cfg hop hlegal
    rw [step_of_decoded hwf hin hd, exec_setLength_of_beyond hf' hbeyond, State.raise_of_safe hf',
      hcmd, Cause.code]
  · obtain ⟨b, hb, hd, -⟩ := decode_setLength s.cfg hop hlegal
    obtain ⟨u, hu, hbuf, hother, hsame⟩ := exec_setBuf_frame (exec_setLength (b := b) hf' hv)
    exact ⟨b, u, hb, (step_of_decoded hwf hin hd).trans hu, hbuf, hother, hsame⟩

end Sys2Proof.Machine
end

section
/-! The write commands: what one that fits stores, what one that does not fit leaves alone, a patch, and the
cursors no write touches (41_frame_encoder.md R120 to R132, R139). -/

namespace Sys2Proof.Machine

open Sys2Proof

section
variable {s t u : State} {b : BufId} {i : Instr} {ws : List Word}

/-! ## A write that does not fit (R120) -/

theorem exec_write_of_overflow (hf : s.fatal = false) (hi : i.wf s.cfg = true)
    (hw : writtenWords s.cfg i = some (b, ws))
    (h : s.cfg.capWords < (s.buf b).widx.toNat + ws.length) :
    exec i s = .next (s.raise .bufferOverflow (i.cmd s.cfg)) := by
  rw [exec_eq_writeWords hf hi hw, State.writeWords_of_overflow h]

theorem exec_writeCrc_of_overflow (hf : s.fatal = false)
    (h : s.cfg.capWords < (s.buf b).widx.toNat + 2) :
    exec (.writeCrc b) s = .next (s.raise .bufferOverflow ((Instr.writeCrc b).cmd s.cfg)) := by
  rw [exec, execWriteCrc, command_of_legal hf rfl, if_pos h]

/-! ## Frames one after another -/

theorem SameButBuffers.trans (h : SameButBuffers s t) (h' : SameButBuffers t u) :
    SameButBuffers s u := by
  rw [SameButBuffers, h', h]

theorem OtherBuffersSame.trans (h : OtherBuffersSame b s t) (h' : OtherBuffersSame b t u) :
    OtherBuffersSame b s u := fun b' hb => (h' b' hb).trans (h b' hb)

/-! ## Write commands in R41's table -/

theorem writesElements_of_isWrite {cfg : Config} (h : isWrite cfg i) :
    writesElements i = [.mem, .widx] := by
  obtain h | ⟨b, rfl⟩ := h
  · cases i
    case writeU8 | writeU16 | writeU32 | writeFloat | writeString | writeWord | writeDelay
    | writeTrigger | markEndOfFrame | writeTimestamp => rfl
    all_goals cases h
  · rfl

theorem len_mem_writesElements (h : Element.len ∈ writesElements i) :
    (∃ b v, i = .setLength b v) ∨ ∃ b, i = .clear b := by
  cases i
  case setLength b v => exact .inl ⟨b, v, rfl⟩
  case clear b => exact .inr ⟨b, rfl⟩
  case setIndex b sel v => cases sel <;> simp [writesElements] at h
  all_goals simp [writesElements] at h

end

/-! ## The statements -/

/-- Settles O20: the write appends its words, and nothing else about the state changes. -/
theorem writesAppendAtTheCursor : Obligations.WritesAppendAtTheCursor := by
  intro s i b ws hwf hf hi hw room
  have hnowrap : (s.buf b).widx.toNat + ws.length < 2 ^ 16 := by
    have hcap := Config.capWords_le hwf
    omega
  refine ⟨_, exec_write hf hi hw room, State.appended_holds, State.appended_widx hnowrap,
    fun _ h => State.appended_word?_outside h, ?ridx, ?len, ?fstart,
    s.setBuf_otherBuffersSame b _, s.setBuf_sameButBuffers b _⟩
  all_goals rw [State.buf_appended]

/-- Settles O21: both forms of write check their whole list before they store or draw. -/
theorem overflowingWriteStoresNothing : Obligations.OverflowingWriteStoresNothing := by
  intro s i b n hf hi hlist hover
  refine Eq.trans ?_ (congrArg _ (State.raise_of_safe hf .bufferOverflow (i.cmd s.cfg)))
  obtain ⟨ws, hw, rfl⟩ | ⟨rfl, rfl⟩ := hlist
  · exact exec_write_of_overflow hf hi hw hover
  · exact exec_writeCrc_of_overflow hf hover

/-- Settles O24: after SET_INDEX the write appends at the new cursor, and SET_INDEX moved no word. -/
theorem patchReplacesOnlyItsWords : Obligations.PatchReplacesOnlyItsWords := by
  intro s i b ws k hwf hf hi hw room
  have hmove : exec (.setIndex b .write k) s = .next (s.setBuf b { s.buf b with widx := k }) :=
    exec_setIndex .write hf (by omega)
  obtain ⟨t, hwrite, hholds, hwidx, hword, hridx, hlen, hfstart, hother, hsame⟩ :=
    writesAppendAtTheCursor (s.setBuf b { s.buf b with widx := k }) i b ws (by simpa using hwf)
      (by simpa using hf) (by simpa using hi) (by simpa using hw) (by simpa using room)
  simp only [State.word?, State.buf_setBuf_same] at hholds hwidx hword hridx hlen hfstart
  exact ⟨t, by rw [runAll_cons hmove, runAll_singleton, hwrite], hholds, hword, hwidx, hlen,
    hfstart, hridx, (s.setBuf_otherBuffersSame b _).trans hother,
    (s.setBuf_sameButBuffers b _).trans hsame⟩

/-- Settles O58, by R41's table: what a command does not list there it leaves alone. -/
theorem writesLeaveLengthAndReadCursor : Obligations.WritesLeaveLengthAndReadCursor := by
  intro i s t b h
  have hkept : ∀ e, e ∉ writesElements i → e.Same s t := fun _ => (exec_effect h).same
  refine ⟨fun hwrite => ?_, fun hlength hclear => hkept .len (fun hmem => ?_) b⟩
  · rw [writesElements_of_isWrite hwrite] at hkept
    exact ⟨hkept .len (by decide) b, hkept .ridx (by decide) b, hkept .fstart (by decide) b⟩
  · obtain ⟨b', v, hi⟩ | ⟨b', hi⟩ := len_mem_writesElements hmem
    · exact hlength b' v hi
    · exact hclear b' hi

end Sys2Proof.Machine
end

section
/-! The read commands: within LEN_b they take the bytes at the read cursor, past it they fault
(42_frame_decoder.md R160 to R167). -/

namespace Sys2Proof.Machine

open Sys2Proof

/-! ## Bytes put together, as numbers (R16, R54, R55) -/

theorem toNat_append_byte {n : Nat} (v : BitVec n) (x : Byte) :
    (v ++ x).toNat = v.toNat * 2 ^ 8 + x.toNat := by
  rw [BitVec.toNat_append, ← Nat.shiftLeft_add_eq_or_of_lt x.isLt, Nat.shiftLeft_eq]

theorem setWidth_u16be (x0 x1 : Byte) :
    (u16be [x0, x1]).setWidth 32 = BitVec.ofNat 32 (x0.toNat * 2 ^ 8 + x1.toNat) := by
  rw [← toNat_append_byte, BitVec.ofNat_toNat]
  rfl

/-- The low byte comes first (R54). -/
theorem setWidth_u16le (x0 x1 : Byte) :
    (u16le [x0, x1]).setWidth 32 = BitVec.ofNat 32 (x1.toNat * 2 ^ 8 + x0.toNat) :=
  setWidth_u16be x1 x0

theorem u32be_eq_ofNat (x0 x1 x2 x3 : Byte) :
    u32be [x0, x1, x2, x3] = BitVec.ofNat 32
      (x0.toNat * 2 ^ 24 + x1.toNat * 2 ^ 16 + x2.toNat * 2 ^ 8 + x3.toNat) := by
  have hvalue : (x0 ++ x1 ++ x2 ++ x3).toNat =
      x0.toNat * 2 ^ 24 + x1.toNat * 2 ^ 16 + x2.toNat * 2 ^ 8 + x3.toNat := by
    simp only [toNat_append_byte]
    omega
  rw [← hvalue, BitVec.ofNat_toNat]
  exact (BitVec.setWidth_eq _).symm

section
variable {s : State} {b : BufId} {i : Instr} {n : Nat}

/-! ## The bytes of a range (R53, R65, R77) -/

/-- A written word gives its byte, whatever stands beside it. -/
theorem State.bytesAt_getElem?_of_written {j k : Nat} {v : Word} (hk : k < n)
    (hv : s.word? b (j + k) = some v) :
    (s.bytesAt b j n).1[k]? = some (s.cfg.byteOf b.kind v) := by
  rw [State.bytesAt, List.getElem?_map, Memory.readAll_getElem? _ _ _ hk, Memory.read_of_written hv]
  rfl

/-! ## The common read step on bytes (R160) -/

/-- The bytes a read of n bytes takes. -/
def State.bytesToRead (s : State) (b : BufId) (n : Nat) : List Byte :=
  (s.bytesAt b (s.buf b).ridx.toNat n).1

theorem State.bytesToRead_length (s : State) (b : BufId) (n : Nat) :
    (s.bytesToRead b n).length = n := by
  simp [State.bytesToRead, State.bytesAt]

theorem State.width_of_bytesToRead {xs : List Byte} (hx : s.bytesToRead b n = xs) :
    n = xs.length := by
  rw [← hx, State.bytesToRead_length]

/-- The state once a read has taken its n bytes: their draws counted, the cursor after them
(`State.readBytes_of_avail`). -/
def State.bytesTaken (s : State) (b : BufId) (n : Nat) : State :=
  State.advanced { s with draws := (s.bytesAt b (s.buf b).ridx.toNat n).2 } b n

theorem State.readBytes_of_avail (avail : (s.buf b).ridx.toNat + n ≤ (s.buf b).len.toNat)
    (cmd : DWord) (k : List Byte → State → State) :
    s.readBytes b n cmd k = k (s.bytesToRead b n) (s.bytesTaken b n) :=
  State.readWords_of_avail avail cmd _

theorem State.bytesTaken_draws :
    (s.bytesTaken b n).draws = (s.bytesAt b (s.buf b).ridx.toNat n).2 := State.setBuf_draws ..

theorem State.buf_bytesTaken : (s.bytesTaken b n).buf b =
    { s.buf b with ridx := BitVec.ofNat 16 ((s.buf b).ridx.toNat + n) } := State.buf_setBuf_same ..

theorem State.bytesTaken_otherBuffersSame : OtherBuffersSame b s (s.bytesTaken b n) :=
  State.setBuf_otherBuffersSame { s with draws := _ } b _

/-- Taking bytes changes nothing but the buffers and the count of draws. -/
theorem State.bytesTaken_frame : s.bytesTaken b n =
    { s with
      tx := (s.bytesTaken b n).tx, rx := (s.bytesTaken b n).rx
      draws := (s.bytesTaken b n).draws } := by
  rw [State.bytesTaken_draws]
  exact State.setBuf_sameButBuffers ..

theorem State.bytesTaken_zero : s.bytesTaken b 0 = s :=
  calc s.bytesTaken b 0
    _ = s.setBuf b { s.buf b with ridx := BitVec.ofNat 16 (s.buf b).ridx.toNat } := rfl
    _ = s.setBuf b (s.buf b) := by rw [BitVec.ofNat_toNat, BitVec.setWidth_eq]
    _ = s := s.setBuf_buf b

/-! ## What each command comes to -/

/-- A byte read's buffer, its width, and what it does with the bytes (`exec_byteRead`). -/
def byteRead : Instr → Option (BufId × Nat × (List Byte → State → State))
  | .readU8 b => some (b, 1, fun xs t => t.withResult ((xs.getD 0 0).setWidth 32))
  | .readU16 b => some (b, 2, fun xs t => t.withResult ((u16be xs).setWidth 32))
  | .readCrc b => some (b, 2, fun xs t => t.withResult ((u16le xs).setWidth 32))
  | .readU32 b | .readFloat b => some (b, 4, fun xs t => t.withResult (u32be xs))
  | .readString b m => some (b, m.toNat, fun xs t => { t with rbytes := xs })
  | _ => none

section
variable {k : List Byte → State → State} (hf : s.fatal = false) (hi : byteRead i = some (b, n, k))
include hf hi

/-- A byte read runs the common read step: none of its operand values is illegal. -/
theorem exec_byteRead : exec i s = .next (s.readBytes b n (i.cmd s.cfg) k) := by
  cases i <;> cases hi
  all_goals
    dsimp only [exec]
    exact command_of_legal hf rfl _

theorem exec_byteRead_of_avail (avail : (s.buf b).ridx.toNat + n ≤ (s.buf b).len.toNat) :
    exec i s = .next (k (s.bytesToRead b n) (s.bytesTaken b n)) := by
  rw [exec_byteRead hf hi, State.readBytes_of_avail avail]

theorem exec_byteRead_of_past (h : (s.buf b).len.toNat < (s.buf b).ridx.toNat + n) :
    exec i s = .next (s.raise .readPastEnd (i.cmd s.cfg)) := by
  rw [exec_byteRead hf hi, State.readBytes, State.readWords_of_past h]

end

theorem exec_readWord_of_past (hf : s.fatal = false)
    (h : (s.buf b).len.toNat < (s.buf b).ridx.toNat + 1) :
    exec (.readWord b) s = .next (s.raise .readPastEnd ((Instr.readWord b).cmd s.cfg)) := by
  rw [exec, execReadWord, command_of_legal hf rfl, State.readWords_of_past h]

/-! ## The value of each width -/

section
variable {x0 x1 x2 x3 : Byte} (hf : s.fatal = false)
  (avail : (s.buf b).ridx.toNat + n ≤ (s.buf b).len.toNat)
include hf avail

theorem exec_readU8_of_avail (hx : s.bytesToRead b n = [x0]) :
    exec (.readU8 b) s = .next { s.bytesTaken b n with result := x0.setWidth 32 } := by
  obtain rfl := State.width_of_bytesToRead hx
  rw [exec_byteRead_of_avail hf rfl avail, hx]
  rfl

theorem exec_readU16_of_avail (hx : s.bytesToRead b n = [x0, x1]) :
    exec (.readU16 b) s = .next { s.bytesTaken b n with
      result := BitVec.ofNat 32 (x0.toNat * 2 ^ 8 + x1.toNat) } := by
  obtain rfl := State.width_of_bytesToRead hx
  rw [exec_byteRead_of_avail hf rfl avail, hx, setWidth_u16be, State.withResult]

theorem exec_readCrc_of_avail (hx : s.bytesToRead b n = [x0, x1]) :
    exec (.readCrc b) s = .next { s.bytesTaken b n with
      result := BitVec.ofNat 32 (x1.toNat * 2 ^ 8 + x0.toNat) } := by
  obtain rfl := State.width_of_bytesToRead hx
  rw [exec_byteRead_of_avail hf rfl avail, hx, setWidth_u16le, State.withResult]

/-- READ_U32 and READ_FLOAT return the same value (R163, R164). -/
theorem exec_read32_of_avail (hx : s.bytesToRead b n = [x0, x1, x2, x3])
    (hi : i = .readU32 b ∨ i = .readFloat b) :
    exec i s = .next { s.bytesTaken b n with
      result := BitVec.ofNat 32
        (x0.toNat * 2 ^ 24 + x1.toNat * 2 ^ 16 + x2.toNat * 2 ^ 8 + x3.toNat) } := by
  obtain rfl := State.width_of_bytesToRead hx
  have hread : byteRead i =
      some (b, [x0, x1, x2, x3].length, fun xs t => t.withResult (u32be xs)) := by
    obtain rfl | rfl := hi <;> rfl
  rw [exec_byteRead_of_avail hf hread avail, hx, u32be_eq_ofNat, State.withResult]

end

theorem exec_readString_of_avail {m : Word} (hf : s.fatal = false)
    (avail : (s.buf b).ridx.toNat + m.toNat ≤ (s.buf b).len.toNat) :
    exec (.readString b m) s =
      .next { s.bytesTaken b m.toNat with rbytes := s.bytesToRead b m.toNat } :=
  exec_byteRead_of_avail (i := .readString b m) hf rfl avail

end

/-! ## The statements -/

/-- Settles O33: each byte read is the common read step, and differs in what it makes of the bytes. -/
theorem readsTakeBytesAtTheCursor : Obligations.ReadsTakeBytesAtTheCursor := by
  intro s b n hf avail
  refine ⟨s.bytesTaken b n, s.bytesToRead b n, s.bytesToRead_length b n, ?bytes,
    fun _ _ hk hv => State.bytesAt_getElem?_of_written hk hv, ?written, ?buffer, ?cursor,
    State.bytesTaken_otherBuffersSame, State.bytesTaken_frame,
    fun _ => exec_readU8_of_avail hf avail,
    fun _ _ hx => ⟨exec_readU16_of_avail hf avail hx, exec_readCrc_of_avail hf avail hx⟩,
    fun _ _ _ _ hx => ⟨exec_read32_of_avail hf avail hx (.inl rfl),
      exec_read32_of_avail hf avail hx (.inr rfl)⟩, ?string⟩
  case bytes => rw [State.bytesTaken_draws, State.bytesToRead]
  case written =>
    rintro ws hholds rfl
    rw [State.bytesTaken_draws, State.bytesToRead, State.bytesAt_of_holds hholds]
    exact ⟨rfl, rfl⟩
  case buffer => rw [State.buf_bytesTaken]
  case cursor =>
    rw [State.buf_bytesTaken]
    exact toNat_ofNat_of_le avail
  case string =>
    rintro m rfl
    exact exec_readString_of_avail hf avail

/-- Settles O35: the common read step checks LEN_b before it reads, moves or returns anything. -/
theorem readPastEndIsFatal : Obligations.ReadPastEndIsFatal := by
  intro s i b n hf hi hpast
  refine Eq.trans ?_ (congrArg _ (State.raise_of_safe hf .readPastEnd (i.cmd s.cfg)))
  obtain ⟨rfl, rfl | rfl⟩ | ⟨rfl, rfl | rfl⟩ | ⟨rfl, rfl | rfl⟩ | ⟨m, rfl, -, rfl⟩ := hi
  case inl.inr => exact exec_readWord_of_past hf hpast
  all_goals exact exec_byteRead_of_past hf rfl hpast

/-- Settles O60: taking no byte changes nothing, but LEN_b is checked first (log 14). -/
theorem emptyStringReadFaultsOnlyBeyondTheLength :
    Obligations.EmptyStringReadFaultsOnlyBeyondTheLength := by
  intro s b hf
  refine ⟨fun hwithin => ?_, fun hbeyond => ?_⟩
  · have hread : exec (.readString b 0) s = .next { s.bytesTaken b 0 with rbytes := [] } :=
      exec_readString_of_avail hf hwithin
    rw [hread, State.bytesTaken_zero]
  · rw [exec_byteRead_of_past hf rfl hbeyond, State.raise_of_safe hf, Cause.code]

end Sys2Proof.Machine
end

section
/-! The response counters and the warning registers: crediting one response, and the commands that verify, set,
return and clear them (43_response_parser.md R192, R197 to R206). -/

namespace Sys2Proof.Machine

open Sys2Proof

section
variable {s : State} {c : DevClass} {i : Word} {α : Type}

/-! ## What each command comes to -/

theorem exec_verifyResponses (hf : s.fatal = false) :
    exec .verifyResponses s =
      .next ({ s with timeout := s.exp.map (· != 0) }.withResult
        (BitVec.ofNat 32 (owedCount s.exp))) := by
  rw [exec, execVerifyResponses, command_of_legal hf rfl]

theorem exec_setExpected (e : BitVec 2) (hf : s.fatal = false) (hi : i.toNat < s.cfg.count c) :
    exec (.setExpected c i e) s = .next { s with exp := s.exp.set c i.toNat e } := by
  rw [exec, execSetExpected, command_of_legal (i := .setExpected c i e) hf (decide_eq_true hi)]

theorem exec_getExpected (hf : s.fatal = false) (hi : i.toNat < s.cfg.count c) :
    exec (.getExpected c i) s = .next (s.withResult ((s.exp.get c i.toNat 0).setWidth 32)) := by
  rw [exec, execGetExpected, command_of_legal (i := .getExpected c i) hf (decide_eq_true hi)]

theorem exec_clearExpected (hf : s.fatal = false) :
    exec .clearExpected s = .next { s with exp := s.exp.map fun _ => 0 } := by
  rw [exec, execClearExpected, command_of_legal hf rfl]

theorem exec_readDevwarn (hf : s.fatal = false) (hi : i.toNat < s.cfg.count c) :
    exec (.readDevwarn c i) s =
      .next (s.withResult ((s.devwarn.get c i.toNat 0).setWidth 32)) := by
  rw [exec, execReadDevwarn, command_of_legal (i := .readDevwarn c i) hf (decide_eq_true hi)]

theorem exec_readTimeout (hf : s.fatal = false) (hi : i.toNat < s.cfg.count c) :
    exec (.readTimeout c i) s =
      .next (s.withResult ((BitVec.ofBool (s.timeout.get c i.toNat false)).setWidth 32)) := by
  rw [exec, execReadTimeout, command_of_legal (i := .readTimeout c i) hf (decide_eq_true hi)]

theorem exec_clearWarnings (hf : s.fatal = false) :
    exec .clearWarnings s =
      .next { s with
        subwarn := .const 0, unknownSubnet := false, devwarn := s.devwarn.map fun _ => 0 } := by
  rw [exec, execClearWarnings, command_of_legal hf rfl]

theorem exec_readRxts (sn : Subnet) (hf : s.fatal = false) :
    exec (.readRxts sn) s = .next (s.withResult (s.rxts.get sn)) := by
  rw [exec, execReadRxts, command_of_legal hf rfl]

/-! ## A file changed as a whole -/

theorem DevFile.get_map {β : Type} (f : DevFile α) (g : α → β) {k : Nat}
    (hk : k < (f.file c).length) (d : α) (d' : β) : (f.map g).get c k d' = g (f.get c k d) := by
  simp [DevFile.get, hk]

/-- Every entry of every class overwritten with one value. -/
theorem DevFile.Sized.file_map_const {β : Type} {cfg : Config} {f : DevFile α} (h : f.Sized cfg)
    (b : β) (c : DevClass) : (f.map fun _ => b).file c = List.replicate (cfg.count c) b := by
  rw [DevFile.file_map, List.map_const', h c]

/-! ## The count of owed devices (R197) -/

/-- Counting the entries of a list is counting their indices. -/
theorem countP_eq_countP_range (p : α → Bool) (xs : List α) (d : α) :
    xs.countP p = (List.range xs.length).countP fun k => p (xs.getD k d) := by
  have hxs : (List.range xs.length).map (xs.getD · d) = xs :=
    List.ext_getElem (by simp) (by simp +contextual)
  calc xs.countP p
    _ = ((List.range xs.length).map (xs.getD · d)).countP p := by rw [hxs]
    _ = _ := List.countP_map

/-- The count class by class, index by index. -/
theorem owedCount_eq_sum {cfg : Config} {e : DevFile (BitVec 2)} (h : e.Sized cfg) :
    owedCount e = ([DevClass.fa, .hp, .hm].map fun c =>
      (List.range (cfg.count c)).countP fun k => e.get c k 0 != 0).sum := by
  have hclass : ∀ c, (e.file c).countP (· != 0) =
      (List.range (cfg.count c)).countP fun k => e.get c k 0 != 0 := fun c => by
    rw [countP_eq_countP_range _ _ 0, h c]
    rfl
  simp only [← hclass]
  simp [owedCount, DevFile.file, Nat.add_assoc]

/-- No more devices are owed a response than there are. -/
theorem owedCount_le {cfg : Config} {e : DevFile (BitVec 2)} (h : e.Sized cfg) :
    owedCount e ≤ cfg.nfa + 6 + cfg.nhm := by
  have hfa : e.fa.length = cfg.nfa := h .fa
  have hhp : e.hp.length = 6 := h .hp
  have hhm : e.hm.length = cfg.nhm := h .hm
  have := e.fa.countP_le_length (p := (· != 0))
  have := e.hp.countP_le_length (p := (· != 0))
  have := e.hm.countP_le_length (p := (· != 0))
  unfold owedCount
  omega

/-! ## The status with no warning and no fault (R36) -/

theorem State.status_of_clear (hsub : s.subwarn = .const 0) (hunknown : s.unknownSubnet = false)
    (hcause : s.fcause = 0) (hf : s.fatal = false) : s.status = 0 := by
  rw [State.status, hsub, hunknown, hcause, hf]
  rfl

end

/-! ## The statements -/

/-- Settles O48, by the two cases of `account(c, i)`. -/
theorem accountCreditsOneResponse : Obligations.AccountCreditsOneResponse := by
  intro s c i hinv hi
  have hexp : i < (s.exp.file c).length := hinv.exp c ▸ hi
  have hdevwarn : i < (s.devwarn.file c).length := hinv.devwarn c ▸ hi
  by_cases h0 : s.exp.get c i 0 = 0
  · rw [State.account_of_unexpected h0]
    refine ⟨fun hpos => absurd (congrArg BitVec.toNat h0) hpos.ne', fun _ => ⟨rfl, ?_⟩,
      fun _ _ hother => ⟨rfl, ?_⟩, rfl⟩
    · exact DevFile.get_set_same _ _ _ hdevwarn
    · exact DevFile.get_set_other _ _ _ hother
  · have hpos : (s.exp.get c i 0).toNat ≠ 0 := fun h => h0 (BitVec.eq_of_toNat_eq h)
    rw [State.account_of_owed h0]
    refine ⟨fun _ => ⟨?_, rfl⟩, fun hzero => absurd hzero hpos, fun _ _ hother => ⟨?_, rfl⟩, rfl⟩
    · rw [DevFile.get_set_same _ _ _ hexp]
      bv_omega
    · exact DevFile.get_set_other _ _ _ hother

/-- Settles O51: the flags and the count are functions of the counters, which the command leaves alone. -/
theorem verifyFlagsExactlyOwedDevices : Obligations.VerifyFlagsExactlyOwedDevices := by
  refine ⟨decode_cmd (cfg := .refcfg) (i := .verifyResponses) rfl, fun s hinv hf =>
    ⟨_, exec_verifyResponses hf, fun c i hi => ?_, hinv.exp.map _, fun hfew => ?_, rfl,
      exec_verifyResponses hf⟩⟩
  · have hlen : i < (s.exp.file c).length := hinv.exp c ▸ hi
    show (s.exp.map (· != 0)).get c i false = true ↔ _
    rw [DevFile.get_map _ _ hlen 0, bne_iff_ne]
  · have hcount := owedCount_le hinv.exp
    rw [← owedCount_eq_sum hinv.exp]
    exact Nat.mod_eq_of_lt (by omega)

/-- Settles O52, by what the three commands come to under a legal index. -/
theorem expectedCountersAreSetReadAndCleared :
    Obligations.ExpectedCountersAreSetReadAndCleared := by
  intro s c i e hinv hf hi
  have hlen : i.toNat < (s.exp.file c).length := hinv.exp c ▸ hi
  exact ⟨⟨_, exec_setExpected e hf hi, DevFile.get_set_same _ _ _ hlen,
      fun _ _ => DevFile.get_set_other _ _ _, rfl⟩,
    exec_getExpected hf hi, _, exec_clearExpected hf, hinv.exp.file_map_const 0, rfl⟩

/-- Settles O54, by what each of the reads comes to. -/
theorem registerReadsReturnThem : Obligations.RegisterReadsReturnThem := by
  refine fun s c i sn => ⟨rfl, fun hf hi => ⟨exec_readDevwarn hf hi, ?_⟩, exec_readRxts sn⟩
  rw [exec_readTimeout hf hi]
  cases s.timeout.get c i.toNat false <;> rfl

/-- Settles O55: the command is the three assignments of R204, and without a fault they leave STATUS at 0. -/
theorem clearWarningsClearsOnlyWarnings : Obligations.ClearWarningsClearsOnlyWarnings := by
  refine ⟨decode_cmd (cfg := .refcfg) (i := .clearWarnings) rfl, fun s hinv hf =>
    ⟨_, exec_clearWarnings hf, PerSubnet.get_const 0, rfl, hinv.devwarn.file_map_const 0, rfl, ?_⟩⟩
  refine congrArg Host.Outcome.next (congrArg (State.withResult _) ?_)
  exact State.status_of_clear rfl rfl (hinv.noFault hf).1 hf

end Sys2Proof.Machine
end

section
/-! PARSE by the table of R196: a whole buffer, record by record, then the tail; what a truncated record and one
well-formed response leave; and PARSE of a code that is no receive buffer's (43_response_parser.md R180 to R196,
60_exceptions.md R236). -/

namespace Sys2Proof.Machine

open Sys2Proof

section
variable {s : State} {sn : Subnet} {cmd : DWord} {code : BitVec 4} {v : ParseVars}
  {tail : List Word} {recs : List (List Word × List Byte)}

/-! ## PARSE on the command port (R195) -/

/-- The decoder's arm of op 0x40 (R79). -/
theorem decode_of_op_parse {t : Transaction} (hop : t.op = 0x40) :
    decode t = if t.sub = 0 ∧ t.imm = 0 ∧ t.bytes = [] then some (.parse t.buf) else none := by
  by_cases hbytes : t.bytes = [] <;> simp [decode, decodePlain, hop, hbytes]

/-- TX codes and reserved codes name no receive buffer (R72). -/
theorem rxOfCode_eq_none : ∀ {c : BitVec 4}, c.toNat < 8 ∨ 12 < c.toNat → rxOfCode c = none := by
  decide

/-- PARSE of a code that is no receive buffer's (R195). -/
theorem exec_parse_of_noRx (hf : s.fatal = false) (hcode : rxOfCode code = none) :
    exec (.parse code) s = .next { s with unknownSubnet := true } := by
  rw [exec_parse_arm, execParse, command_of_legal hf rfl, hcode]

/-! ## What the end of the data and a row of R196 leave alone -/

theorem noteTimestamp_kept (sn : Subnet) (ws : List Word) (s : State) :
    KeptByParser s (noteTimestamp sn ws s) := by
  rw [noteTimestamp_eq]
  constructor <;> rfl

/-- The tail sets a warning and notes a timestamp at most (R182, R183). -/
theorem endOfRecords_eq (sn : Subnet) (tail : List Word) (s : State) :
    endOfRecords sn tail s =
      { s with
        subwarn := (endOfRecords sn tail s).subwarn, rxts := (endOfRecords sn tail s).rxts } := by
  unfold endOfRecords
  split_ifs
  · rfl
  · rfl
  · rw [noteTimestamp_eq]
    rfl

theorem endOfRecords_kept (sn : Subnet) (tail : List Word) (s : State) :
    KeptByParser s (endOfRecords sn tail s) := by
  rw [endOfRecords_eq]
  constructor <;> rfl

/-- Every row of R196 but row 6 keeps what the parser's writes keep. -/
theorem applyOutcome_kept (xs : List Byte) {o : FrameOutcome} (ho : o ≠ .classThree) :
    KeptByParser s (applyOutcome sn cmd xs s o) := by
  cases o with
  | classThree => exact absurd rfl ho
  | tooShort | badCrc | unknownAddress | exceptionLength | noShape | shapeLength =>
    exact (Touch.warnSubnet _).kept
  | exceptionResponse c i w =>
    exact (Touch.warnDevice (sn := sn) c i w).kept.trans (State.account_touch sn _ c i).kept
  | decoded c i d =>
    exact (Touch.decode (sn := sn) c i _).kept.trans (State.account_touch sn _ c i).kept

/-! ## The words still to parse -/

/-- The words ws are what a parse at v still has before it: they stand from p on, and end at n, which is LEN_b
(R180). -/
structure Unparsed (s : State) (sn : Subnet) (v : ParseVars) (ws : List Word) : Prop where
  limit : v.n = (s.rx.get sn).len.toNat
  length : v.n = v.p + ws.length
  words : ∀ k, k < ws.length → Memory.word? (s.rx.get sn).mem (v.p + k) = ws[k]?

theorem RxHolds.unparsed (h : RxHolds s sn recs tail) :
    Unparsed s sn (parseStart sn s).1 (recs.flatMap (·.1) ++ tail) where
  limit := rfl
  length := by
    rw [List.length_append, ← Nat.add_assoc]
    exact h.length
  words := h.words

/-- The words of the record at p. -/
theorem Unparsed.record {ws rest : List Word} (h : Unparsed s sn v (ws ++ rest)) {k : Nat}
    (hk : k < ws.length) : Memory.word? (s.rx.get sn).mem (v.p + k) = ws[k]? := by
  rw [h.words k (by rw [List.length_append]; omega), List.getElem?_append_left hk]

/-- Past the record at p the rest is still to parse. -/
theorem Unparsed.next {t : State} {v' : ParseVars} {ws rest : List Word}
    (h : Unparsed s sn v (ws ++ rest)) (hrx : t.rx = s.rx) (hp : v'.p = v.p + ws.length)
    (hn : v'.n = v.n) : Unparsed t sn v' rest where
  limit := by rw [hn, hrx, h.limit]
  length := by rw [hn, hp, h.length, List.length_append, Nat.add_assoc]
  words k hk := by
    rw [hrx, hp, Nat.add_assoc, h.words _ (by rw [List.length_append]; omega),
      List.getElem?_append_right (Nat.le_add_right _ _), Nat.add_sub_cancel_left]

/-! ## The end of the data (R182, R183, R193) -/

/-- After the last record the table comes to the tail's row, and P_DONE with the cursor at n. -/
theorem parseRecords_nil (h : Unparsed s sn v tail) :
    parseRecords sn cmd tail [] s = ((endOfRecords sn tail s).setBuf ⟨.rx, sn⟩
      { s.rx.get sn with ridx := BitVec.ofNat 16 v.n }).goto .idle := by
  have hrx : (endOfRecords sn tail s).rx = s.rx := (endOfRecords_kept sn tail s).rx
  rw [parseRecords, hrx, h.limit, BitVec.ofNat_toNat, BitVec.setWidth_eq]
  simp [State.goto, State.setBuf, hrx]

/-- A truncated record ends the parse: the warning, then P_DONE with the cursor at n. -/
theorem parseRun_endTruncated (sn : Subnet) (cmd : DWord) (v : ParseVars) (s : State) (k : Nat) :
    (parseRun sn cmd (k + 1) (endTruncated sn v s)).2 =
      ((s.warnSubnet sn .invalidLength).setBuf ⟨.rx, sn⟩
        { s.rx.get sn with ridx := BitVec.ofNat 16 v.n }).goto .idle := by
  rw [parseRun, if_neg nofun, parseRun_idle _ _ _ rfl]
  rfl

/-- Row 1 of R196. -/
theorem parseHeader_of_truncated {q : PState} (h : Unparsed s sn v tail) (hne : tail ≠ [])
    (hshort : tail.length < s.cfg.hdrWords) :
    parseHeader sn v (s.goto q) = endTruncated sn v (s.goto q) := by
  have hpos : 0 < tail.length := List.length_pos_iff.2 hne
  have hlen := h.length
  rw [parseHeader, if_neg (by omega), if_pos (by rw [State.goto_cfg]; omega)]

/-- With no record before it, the tail ends the parse within three transitions (R182, R183). -/
theorem parseRun_tail (h1 : 1 ≤ s.cfg.hdrWords) (ht : IsTail s.cfg tail)
    (h : Unparsed s sn v tail) {k : Nat} (hk : 5 * tail.length + 2 ≤ k) :
    (parseRun sn cmd k (v, s.goto .header)).2 = parseRecords sn cmd tail [] s := by
  rw [parseRecords_nil h]
  have hlen := h.length
  by_cases hne : tail = []
  · subst hne
    obtain ⟨k, rfl⟩ := Nat.exists_eq_add_of_le' hk
    have hp : v.p = v.n := by simp [hlen]
    rw [← hp]
    exact congrArg Prod.snd (parseRun_done sn cmd v s (by omega) k)
  obtain ⟨k, rfl⟩ : ∃ j, k = j + 1 + 1 + 1 :=
    ⟨k - 3, by have := List.length_pos_iff.2 hne; omega⟩
  have hstep : parseStep sn cmd (v, s.goto .header) = parseHeader sn v (s.goto .header) := rfl
  rw [parseRun, if_neg nofun, hstep, endOfRecords, if_neg (by simpa using hne)]
  by_cases hshort : tail.length < s.cfg.hdrWords
  · rw [parseHeader_of_truncated h hne hshort, parseRun_endTruncated, if_pos hshort]
    rfl
  · have hbody : tail.length < s.cfg.hdrWords + (tail.headD 0).toNat := ht.resolve_left hshort
    have hheader := parseHeader_of_words (sn := sn) (v := v) (s := s.goto .header) (ws := tail) h1
      (Nat.le_of_not_lt hshort) hlen.ge h.words
    have hrx : ((noteTimestamp sn tail s).goto .body).rx = s.rx := noteTimestamp_rx sn tail s
    rw [hheader, if_neg hshort, parseRun, if_neg nofun, noteTimestamp_goto]
    show (parseRun sn cmd (k + 1) (parseBody sn _ ((noteTimestamp sn tail s).goto .body))).2 = _
    rw [parseBody, if_pos (by simp only [State.goto_cfg]; omega), parseRun_endTruncated, hrx]
    rfl

/-! ## The whole buffer (R196) -/

theorem parseRecords_cons_of_classThree {r : List Word × List Byte}
    (ho : frameOutcome s.cfg sn r.2 = .classThree) :
    parseRecords sn cmd tail (r :: recs) s =
      (noteTimestamp sn r.1 s).raise .unknownDeviceClass cmd := by
  rw [parseRecords, noteTimestamp_cfg, if_pos ho, ho, applyOutcome]

theorem parseRecords_cons {r : List Word × List Byte}
    (ho : frameOutcome s.cfg sn r.2 ≠ .classThree) :
    parseRecords sn cmd tail (r :: recs) s =
      parseRecords sn cmd tail recs
        (applyOutcome sn cmd r.2 (noteTimestamp sn r.1 s) (frameOutcome s.cfg sn r.2)) := by
  rw [parseRecords, noteTimestamp_cfg, if_neg ho]

/-- From a record header on, a parse does what `parseRecords` says, within five transitions for each word. -/
theorem parseRun_records (h1 : 1 ≤ s.cfg.hdrWords)
    (hrecs : ∀ r ∈ recs, IsRecord s.cfg r.1 r.2) (ht : IsTail s.cfg tail)
    (h : Unparsed s sn v (recs.flatMap (·.1) ++ tail)) {k : Nat}
    (hk : 5 * (recs.flatMap (·.1) ++ tail).length + 2 ≤ k) :
    (parseRun sn cmd k (v, s.goto .header)).2 = parseRecords sn cmd tail recs s := by
  induction recs generalizing s v k with
  | nil => exact parseRun_tail h1 ht h hk
  | cons r recs ih =>
    obtain ⟨hr, hrecs⟩ := List.forall_mem_cons.1 hrecs
    rw [List.flatMap_cons, List.append_assoc] at h hk
    have hlen := h.length
    rw [List.length_append] at hlen hk
    have hwords : 1 ≤ r.1.length := by have := hr.length; omega
    obtain ⟨v', m, hm, hp, hn, hrun⟩ :=
      parseRun_record sn cmd v s h1 hr (by omega) fun _ => h.record
    obtain ⟨k, rfl⟩ : ∃ j, k = j + m := ⟨k - m, by omega⟩
    rw [hrun]
    by_cases ho : frameOutcome s.cfg sn r.2 = .classThree
    · rw [if_pos ho, parseRun_idle _ _ _ (State.raise_pstate ..),
        parseRecords_cons_of_classThree ho]
    · have hkept := (noteTimestamp_kept sn r.1 s).trans
        (applyOutcome_kept (sn := sn) (cmd := cmd) r.2 ho)
      rw [if_neg ho, parseRecords_cons ho]
      refine ih ?_ ?_ ?_ (h.next hkept.rx hp hn) (by omega)
      all_goals rwa [hkept.cfg]

/-- PARSE of written words, by the table of R196. -/
theorem State.parse_eq_parseRecords (h1 : 1 ≤ s.cfg.hdrWords) (h : RxHolds s sn recs tail) :
    s.parse sn cmd = parseRecords sn cmd tail recs s := by
  refine parseRun_records (v := (parseStart sn s).1) h1 h.isRecord h.isTail h.unparsed ?_
  have hlen := h.unparsed.length
  rw [parseFuel]
  omega

/-! ## One well-formed response (R190, R191) -/

/-- The payload of a frame, its bytes named (R191). -/
theorem payload_frame (a fc lo hi : Byte) (pl : List Byte) :
    payload (a :: fc :: (pl ++ [lo, hi])) = pl := by
  simp [payload]

/-- A frame that ends in the CRC of what stands before it (R103). -/
theorem crcOk_frame {a fc lo hi : Byte} {pl : List Byte} (h : crc16 (a :: fc :: pl) = hi ++ lo) :
    crcOk (a :: fc :: (pl ++ [lo, hi])) = true := by
  simp [crcOk, u16le, h]

/-- The frame of a well-formed response has row 11 of R196. -/
theorem frameOutcome_decoded {cfg : Config} {a fc lo hi : Byte} {pl : List Byte} {c : DevClass}
    {i : Nat} {d : Decoder} (hcrc : crc16 (a :: fc :: pl) = hi ++ lo)
    (ha : Config.device? cfg sn a = some (some c, i)) (hfc : fc.toNat < 128)
    (hshape : Config.shape? cfg c fc = some (pl.length + 4, d)) :
    frameOutcome cfg sn (a :: fc :: (pl ++ [lo, hi])) = .decoded c i d := by
  have hok := crcOk_frame hcrc
  simp [frameOutcome, hok, ha, hshape, Nat.not_le.2 hfc]

/-- What a parse of one well-formed response leaves: the telemetry, one credit, the timestamp and the cursor. -/
theorem State.parse_decoded {ws : List Word} {a fc lo hi : Byte} {pl : List Byte} {c : DevClass}
    {i : Nat} {d : Decoder} (hinv : s.Inv)
    (hrx : RxHolds s sn [(ws, a :: fc :: (pl ++ [lo, hi]))] [])
    (ho : frameOutcome s.cfg sn (a :: fc :: (pl ++ [lo, hi])) = .decoded c i d) :
    ∃ e dw, s.parse sn cmd =
        { s with
          tel := s.tel.set c i (Decoder.apply d (s.tel.get c i s.cfg.tel0) pl)
          exp := e, devwarn := dw, rxts := (noteTimestamp sn ws s).rxts
          rx := s.rx.set sn { s.rx.get sn with ridx := (s.rx.get sn).len } } ∧
      (s.exp.get c i 0 ≠ 0 → e = s.exp.set c i (s.exp.get c i 0 - 1) ∧ dw = s.devwarn) ∧
      (s.exp.get c i 0 = 0 → e = s.exp ∧
        dw = s.devwarn.set c i (s.devwarn.get c i 0 ||| 0x20)) := by
  have hidle := hinv.pstate
  rw [State.parse_record (Config.one_le_hdrWords hinv.cfg) hrx (by simp [ho]), ho]
  simp only [applyOutcome, payload_frame]
  rw [noteTimestamp_eq]
  by_cases h0 : s.exp.get c i 0 = 0
  · refine ⟨_, _, ?_, fun h => absurd h0 h, fun _ => ⟨rfl, rfl⟩⟩
    rw [State.account_of_unexpected (by exact h0)]
    simp [State.goto, State.setBuf, hidle]
  · refine ⟨_, _, ?_, fun _ => ⟨rfl, rfl⟩, fun h => absurd h h0⟩
    rw [State.account_of_owed (by exact h0)]
    simp [State.goto, State.setBuf, hidle]

end

/-! ## The statements -/

/-- Settles O40: a legal word decodes to PARSE of a code that names no receive buffer; any other does not
decode. -/
theorem parseOfNonReceiveBufferWarns : Obligations.ParseOfNonReceiveBufferWarns := by
  intro s t rest hwf hf hin hop hbuf
  have hf' : State.fatal { s with inputs := rest } = false := hf
  refine ⟨fun hzero => ?_, fun hnonzero => ?_⟩
  · have hd : decode t = some (.parse t.buf) := by rw [decode_of_op_parse hop, if_pos hzero]
    rw [step_of_decoded hwf hin hd, exec_parse_of_noRx hf' (rxOfCode_eq_none hbuf)]
  · have hd : decode t = none := by rw [decode_of_op_parse hop, if_neg hnonzero]
    rw [step_of_undecoded hwf hin hd, notACommand_of_safe hf', State.raise_of_safe hf', Cause.code]

/-- Settles O42, by `State.parse_eq_parseRecords`. -/
theorem parseFollowsTheOutcomeTable : Obligations.ParseFollowsTheOutcomeTable := by
  intro s code sn recs tail hwf hf hsn hrx
  rw [exec_parse hf hsn, State.parse_eq_parseRecords (Config.one_le_hdrWords hwf) hrx]

/-- Settles O43: with no record the table comes to the tail's row and the cursor (`endOfRecords`). -/
theorem truncatedRecordEndsTheParse : Obligations.TruncatedRecordEndsTheParse := by
  intro s code sn tail hwf hf hsn hne hrx
  refine ⟨_, parseFollowsTheOutcomeTable s code sn [] tail hwf hf hsn hrx, ?_⟩
  rw [parseRecords, endOfRecords, if_neg (by simpa using hne)]
  by_cases hshort : tail.length < s.cfg.hdrWords
  · rw [if_pos hshort]
    exact ⟨rfl, rfl, fun _ _ => rfl, fun _ => rfl, rfl⟩
  · rw [if_neg hshort, noteTimestamp]
    split
    · exact ⟨rfl, rfl, fun _ hother => PerSubnet.get_set_other _ _ hother,
        fun h => absurd h hshort, rfl⟩
    · exact ⟨rfl, rfl, fun _ _ => rfl, fun _ => rfl, rfl⟩

/-- Settles O44: the record has row 11 of R196, telemetry and one credit (`State.parse_decoded`). -/
theorem wellFormedResponseIsDecoded : Obligations.WellFormedResponseIsDecoded := by
  intro s code sn ws a fc lo hi pl c i len d hinv hf hsn hrx hcrc ha hfc hshape hlen
  obtain ⟨e, dw, hparse, howed, hunexpected⟩ := State.parse_decoded
    (cmd := (Instr.parse code).cmd s.cfg) hinv hrx
    (frameOutcome_decoded hcrc ha hfc (hlen ▸ hshape))
  refine ⟨_, exec_parse hf hsn, ?_⟩
  rw [hparse]
  exact ⟨rfl, howed, hunexpected, noteTimestamp_rxts_one, fun _ => noteTimestamp_rxts_two,
    fun _ _ => noteTimestamp_rxts_three, rfl, rfl⟩

end Sys2Proof.Machine
end

section
/-! The accounting of responses: what one credit, one record, one PARSE and a PARSE of each receive buffer leave
of a device's counter and of its UNEXPECTED_RESPONSE bit (43_response_parser.md R192, R196, R197, R207). -/

namespace Sys2Proof.Machine

open Sys2Proof

/-- The files of s have an entry (c, i). -/
structure State.HasDevice (s : State) (c : DevClass) (i : Nat) : Prop where
  exp : i < (s.exp.file c).length
  devwarn : i < (s.devwarn.file c).length

/-- What n credits of the device (c, i) have made of s: its counter is down by n, never below 0, and its
UNEXPECTED_RESPONSE bit is set where more came than were owed (R192). -/
structure Credited (c : DevClass) (i n : Nat) (s t : State) : Prop where
  device : t.HasDevice c i
  exp : (t.exp.get c i 0).toNat = (s.exp.get c i 0).toNat - n
  unexpected : (t.devwarn.get c i 0).getLsbD 5 =
    ((s.devwarn.get c i 0).getLsbD 5 || decide ((s.exp.get c i 0).toNat < n))

section
variable {s t u : State} {sn : Subnet} {cmd : DWord} {c c' : DevClass} {i i' n m : Nat}
  {tail : List Word} {recs : List (List Word × List Byte)}

/-! ## One credit and one warning -/

theorem State.Inv.hasDevice (h : s.Inv) (hi : i < s.cfg.count c) : s.HasDevice c i :=
  ⟨h.exp c ▸ hi, h.devwarn c ▸ hi⟩

/-- A change elsewhere in the state credits nothing. -/
theorem Credited.of_eq (h : s.HasDevice c i) (hexp : t.exp = s.exp)
    (hdevwarn : t.devwarn = s.devwarn) : Credited c i 0 s t where
  device := ⟨hexp ▸ h.exp, hdevwarn ▸ h.devwarn⟩
  exp := by rw [hexp, Nat.sub_zero]
  unexpected := by simp [hdevwarn]

theorem Credited.trans (h : Credited c i n s t) (h' : Credited c i m t u) :
    Credited c i (n + m) s u where
  device := h'.device
  exp := by rw [h'.exp, h.exp, Nat.sub_sub]
  unexpected := by
    rw [h'.unexpected, h.unexpected, h.exp, Bool.or_assoc, ← Bool.decide_or]
    congr 2
    exact propext (by omega)

theorem DevFile.length_file_set {α : Type} (f : DevFile α) (c c' : DevClass) (i : Nat) (a : α) :
    ((f.set c' i a).file c).length = (f.file c).length := by
  by_cases hc : c = c'
  · subst hc; simp
  · simp [hc]

/-- An exception's warning is not UNEXPECTED_RESPONSE (R30). -/
theorem DevWarning.mask_unexpected {w : DevWarning} (hw : w ≠ .unexpectedResponse) :
    w.mask.getLsbD 5 = false := by
  cases w with
  | exception k => cases k <;> rfl
  | unknownException => rfl
  | unexpectedResponse => exact absurd rfl hw

/-- A warning of another kind, of whichever device, credits nothing. -/
theorem Credited.warnDevice (h : s.HasDevice c i) {w : DevWarning} (hw : w ≠ .unexpectedResponse)
    (c' : DevClass) (i' : Nat) : Credited c i 0 s (s.warnDevice c' i' w) where
  device := ⟨h.exp, by rw [State.warnDevice, DevFile.length_file_set]; exact h.devwarn⟩
  exp := rfl
  unexpected := by
    rw [State.warnDevice]
    by_cases hd : c = c' ∧ i = i'
    · obtain ⟨rfl, rfl⟩ := hd
      rw [DevFile.get_set_same _ _ _ h.devwarn, BitVec.getLsbD_or, DevWarning.mask_unexpected hw]
      rfl
    · simp [DevFile.get_set_other _ _ _ hd]

/-- `account(c, i)` is one credit of its device (R192). -/
theorem Credited.account (h : s.HasDevice c i) : Credited c i 1 s (s.account c i) := by
  by_cases h0 : s.exp.get c i 0 = 0
  · have hnone : (s.exp.get c i 0).toNat = 0 := congrArg BitVec.toNat h0
    rw [State.account_of_unexpected h0]
    refine ⟨⟨h.exp, ?_⟩, ?_, ?_⟩
    · rw [DevFile.length_file_set]; exact h.devwarn
    · exact hnone.trans (by rw [hnone])
    · rw [DevFile.get_set_same _ _ _ h.devwarn, BitVec.getLsbD_or, hnone]; rfl
  · have hpos : (s.exp.get c i 0).toNat ≠ 0 := fun e => h0 (BitVec.eq_of_toNat_eq e)
    rw [State.account_of_owed h0]
    refine ⟨⟨?_, h.devwarn⟩, ?_, ?_⟩
    · rw [DevFile.length_file_set]; exact h.exp
    · rw [DevFile.get_set_same _ _ _ h.exp]; bv_omega
    · rw [decide_eq_false (by omega), Bool.or_false]

/-- `account` of another device is none. -/
theorem Credited.account_other (h : s.HasDevice c i) (hd : ¬(c = c' ∧ i = i')) :
    Credited c i 0 s (s.account c' i') := by
  by_cases h0 : s.exp.get c' i' 0 = 0
  · rw [State.account_of_unexpected h0]
    refine ⟨⟨h.exp, ?_⟩, rfl, ?_⟩
    · rw [DevFile.length_file_set]; exact h.devwarn
    · simp [DevFile.get_set_other _ _ _ hd]
  · rw [State.account_of_owed h0]
    refine ⟨⟨?_, h.devwarn⟩, ?_, ?_⟩
    · rw [DevFile.length_file_set]; exact h.exp
    · rw [DevFile.get_set_other _ _ _ hd, Nat.sub_zero]
    · simp

/-! ## One record -/

theorem Config.excWarning_ne (cfg : Config) (code : Byte) :
    Config.excWarning cfg code ≠ .unexpectedResponse := by
  unfold Config.excWarning
  split <;> nofun

/-- Row 8 of R196 sets the warning of an exception code. -/
theorem frameOutcome_warning {cfg : Config} {xs : List Byte} {w : DevWarning}
    (h : frameOutcome cfg sn xs = .exceptionResponse c i w) :
    w = Config.excWarning cfg (xs.getD 2 0) := by
  unfold frameOutcome at h
  split at h
  · cases h
  split at h
  · cases h
  split at h
  · cases h
  · cases h
  split at h
  · split at h
    · cases h; rfl
    · cases h
  split at h
  · cases h
  · split at h <;> cases h

/-- A row of R196 credits the device it names, once, and no other. -/
theorem Credited.applyOutcome (h : s.HasDevice c i) (xs : List Byte) {o : FrameOutcome}
    (hw : ∀ c i w, o = .exceptionResponse c i w → w ≠ .unexpectedResponse) :
    Credited c i (if o.credits = some (c, i) then 1 else 0) s
      (applyOutcome sn cmd xs s o) := by
  have haccount : ∀ {t : State} (c' : DevClass) (i' : Nat), Credited c i 0 s t →
      Credited c i (if some (c', i') = some (c, i) then 1 else 0) s (t.account c' i') := by
    intro t c' i' ht
    by_cases hd : c = c' ∧ i = i'
    · obtain ⟨rfl, rfl⟩ := hd
      simpa using ht.trans (.account ht.device)
    · have hne : ¬(c' = c ∧ i' = i) := fun e => hd ⟨e.1.symm, e.2.symm⟩
      simpa [hne] using ht.trans (.account_other ht.device hd)
  cases o with
  | tooShort | badCrc | unknownAddress | exceptionLength | noShape | shapeLength =>
    exact .of_eq h rfl rfl
  | classThree => exact .of_eq h (State.raise_exp ..) (State.raise_devwarn ..)
  | exceptionResponse c' i' w => exact haccount c' i' (.warnDevice h (hw c' i' w rfl) c' i')
  | decoded c' i' d => exact haccount c' i' (.of_eq h rfl rfl)

/-! ## One PARSE -/

theorem creditCount_cons (cfg : Config) (sn : Subnet) (r : List Word × List Byte)
    (recs : List (List Word × List Byte)) (c : DevClass) (i : Nat) :
    creditCount cfg sn (r :: recs) c i =
      (if (frameOutcome cfg sn r.2).credits = some (c, i) then 1 else 0) +
        creditCount cfg sn recs c i := by
  simp [creditCount, List.countP_cons, Nat.add_comm]

/-- What a PARSE of these records comes to for the accounts: every device is credited once for each of its
records, no fault is taken, and the other receive buffers stay as they were. -/
structure Accounted (sn : Subnet) (recs : List (List Word × List Byte)) (s t : State) : Prop where
  cfg : t.cfg = s.cfg
  fatal : t.fatal = s.fatal
  rx : ∀ sn', sn' ≠ sn → t.rx.get sn' = s.rx.get sn'
  credited : ∀ {c i}, s.HasDevice c i → Credited c i (creditCount s.cfg sn recs c i) s t

/-- Without a class-code-3 record the table of R196 credits record by record. -/
theorem parseRecords_accounted (hno : NoClassThree s.cfg sn recs) :
    Accounted sn recs s (parseRecords sn cmd tail recs s) := by
  induction recs generalizing s with
  | nil =>
    have hkept := endOfRecords_kept sn tail s
    refine ⟨hkept.cfg, hkept.fatal, fun sn' hother => ?_, fun h => ?_⟩
    · exact (PerSubnet.get_set_other _ _ hother).trans (by rw [hkept.rx])
    · have hexp : (endOfRecords sn tail s).exp = s.exp := by rw [endOfRecords_eq]
      have hdevwarn : (endOfRecords sn tail s).devwarn = s.devwarn := by rw [endOfRecords_eq]
      exact .of_eq h hexp hdevwarn
  | cons r recs ih =>
    obtain ⟨ho, hno⟩ := List.forall_mem_cons.1 hno
    rw [parseRecords_cons ho]
    have hkept := (noteTimestamp_kept sn r.1 s).trans
      (applyOutcome_kept (sn := sn) (cmd := cmd) r.2 ho)
    obtain ⟨hcfg, hfatal, hrx, hcredited⟩ := ih (hkept.cfg.symm ▸ hno)
    rw [hkept.cfg] at hcredited
    refine ⟨hcfg.trans hkept.cfg, hfatal.trans hkept.fatal,
      fun sn' hother => (hrx sn' hother).trans (by rw [hkept.rx]), fun {c i} h => ?_⟩
    have hstamp : Credited c i 0 s (noteTimestamp sn r.1 s) := .of_eq h (by simp) (by simp)
    have hrecord := Credited.applyOutcome (sn := sn) (cmd := cmd) hstamp.device r.2
      (o := frameOutcome s.cfg sn r.2)
      fun c i w hw => frameOutcome_warning hw ▸ Config.excWarning_ne _ _
    rw [creditCount_cons, ← Nat.zero_add (ite _ _ _)]
    exact (hstamp.trans hrecord).trans (hcredited hrecord.device)

theorem exec_parse_accounted {code : BitVec 4} (hinv : s.Inv) (hf : s.fatal = false)
    (hsn : rxOfCode code = some sn) (hrx : RxHolds s sn recs tail)
    (hno : NoClassThree s.cfg sn recs) :
    ∃ t, exec (.parse code) s = .next t ∧ t.Inv ∧ Accounted sn recs s t := by
  have hrun := parseFollowsTheOutcomeTable s code sn recs tail hinv.cfg hf hsn hrx
  exact ⟨_, hrun, (exec_effect hrun).inv hinv, parseRecords_accounted hno⟩

/-! ## A PARSE of each receive buffer -/

/-- A receive buffer left alone holds what it held. -/
theorem RxHolds.of_eq (h : RxHolds s sn recs tail) (hcfg : t.cfg = s.cfg)
    (hrx : t.rx.get sn = s.rx.get sn) : RxHolds t sn recs tail where
  isRecord := hcfg ▸ h.isRecord
  isTail := hcfg ▸ h.isTail
  words := by
    have hwords := h.words
    simp only [State.Holds, State.word?, State.buf_rx] at hwords ⊢
    rwa [hrx]
  length := by rw [hrx, h.length]

/-- PARSE of one receive buffer after another credits every device once for each of its records in them. -/
theorem runAll_parses {recs : Subnet → List (List Word × List Byte)} {tail : Subnet → List Word}
    {sns : List Subnet} (hdistinct : sns.Nodup) (hinv : s.Inv) (hf : s.fatal = false)
    (hrx : ∀ sn ∈ sns, RxHolds s sn (recs sn) (tail sn))
    (hno : ∀ sn ∈ sns, NoClassThree s.cfg sn (recs sn)) (is : List Instr) :
    ∃ t, runAll ((sns.map fun sn => Instr.parse (BufId.code ⟨.rx, sn⟩)) ++ is) s = runAll is t ∧
      t.Inv ∧ t.fatal = false ∧ t.cfg = s.cfg ∧ ∀ {c i}, s.HasDevice c i →
        Credited c i (sns.map fun sn => creditCount s.cfg sn (recs sn) c i).sum s t := by
  induction sns generalizing s with
  | nil => exact ⟨s, rfl, hinv, hf, rfl, fun h => .of_eq h rfl rfl⟩
  | cons sn sns ih =>
    obtain ⟨hnew, hdistinct⟩ := List.nodup_cons.1 hdistinct
    obtain ⟨hrx, hrxs⟩ := List.forall_mem_cons.1 hrx
    obtain ⟨hno, hnos⟩ := List.forall_mem_cons.1 hno
    obtain ⟨t, hrun, htinv, htcfg, htfatal, htrx, htcredited⟩ :=
      exec_parse_accounted hinv hf (rxOfCode_code sn) hrx hno
    obtain ⟨u, hruns, huinv, hufatal, hucfg, hucredited⟩ := ih hdistinct htinv
      (htfatal.trans hf)
      (fun sn' hmem => (hrxs sn' hmem).of_eq htcfg
        (htrx sn' fun e => hnew (e ▸ hmem)))
      (fun sn' hmem => htcfg.symm ▸ hnos sn' hmem)
    rw [htcfg] at hucredited
    refine ⟨u, ?_, huinv, hufatal, hucfg.trans htcfg, fun h => ?_⟩
    · rw [List.map_cons, List.cons_append, runAll_cons hrun, hruns]
    · rw [List.map_cons, List.sum_cons]
      exact (htcredited h).trans (hucredited (htcredited h).device)

/-- With every counter at 0 no device is owed a response. -/
theorem owedCount_eq_zero {cfg : Config} {e : DevFile (BitVec 2)} (h : e.Sized cfg)
    (h0 : ∀ c i, i < cfg.count c → e.get c i 0 = 0) : owedCount e = 0 := by
  have hclass : ∀ c, (List.range (cfg.count c)).countP (fun k => e.get c k 0 != 0) = 0 :=
    fun c => List.countP_eq_zero.2 fun k hk => by simpa using h0 c k (List.mem_range.1 hk)
  rw [owedCount_eq_sum h]
  simp only [hclass]
  rfl

end

/-! ## The statements -/

/-- Settles O49, by the credits of one PARSE (`Accounted`). -/
theorem accountingOfOneBufferIsExact : Obligations.AccountingOfOneBufferIsExact := by
  intro s code sn recs tail hinv hf hsn hrx hno
  obtain ⟨t, hrun, -, hacc⟩ := exec_parse_accounted hinv hf hsn hrx hno
  refine ⟨t, hrun, hacc.fatal.trans hf, fun c i hi => ?_⟩
  have hcredited := hacc.credited (hinv.hasDevice hi)
  exact ⟨hcredited.exp, hcredited.unexpected⟩

/-- Settles O50: the five parses credit each device exactly as often as it was owed a response, so
VERIFY_RESPONSES finds every counter at 0. -/
theorem allBuffersParsedLeavesNothingOwed : Obligations.AllBuffersParsedLeavesNothingOwed := by
  intro s recs tail hinv hf hrx hno howed
  obtain ⟨t, hrun, htinv, htf, htcfg, hcredited⟩ := runAll_parses (sns := [.s1, .s2, .s3, .s4, .s5])
    (by decide) hinv hf (fun sn _ => hrx sn) (fun sn _ => hno sn) [.verifyResponses]
  have hexact : ∀ c i, i < s.cfg.count c →
      Credited c i (s.exp.get c i 0).toNat s t := fun c i hi => by
    have hsum := hcredited (hinv.hasDevice hi)
    rw [howed c i hi]
    simpa [Nat.add_assoc] using hsum
  have hzero : ∀ c i, i < s.cfg.count c → t.exp.get c i 0 = 0 := fun c i hi =>
    BitVec.eq_of_toNat_eq (by rw [(hexact c i hi).exp, Nat.sub_self]; rfl)
  have hcount : owedCount t.exp = 0 := owedCount_eq_zero htinv.exp (htcfg.symm ▸ hzero)
  refine ⟨_, hrun.trans ((runAll_singleton _ t).trans (exec_verifyResponses htf)), htf, ?_,
    fun c i hi => ⟨hzero c i hi, ?_, ?_⟩⟩
  · rw [hcount]; rfl
  · show (t.exp.map (· != 0)).get c i false = false
    rw [DevFile.get_map _ _ (hexact c i hi).device.exp 0, hzero c i hi]
    rfl
  · exact (hexact c i hi).unexpected.trans (by simp)

end Sys2Proof.Machine
end

section
/-! Fatal faults: what the fatal state accepts, what a fault leaves as it was, which causes each command can raise,
and a PARSE that meets a class-code-3 entry (60_exceptions.md R231 to R236). -/

namespace Sys2Proof.Machine

open Sys2Proof

section
variable {s t : State} {i : Instr} {code : BitVec 4} {tr : Transaction}

/-! ## The fatal state (R234, R235) -/

/-- In the fatal state every instruction but the two reads that R234 names changes nothing. -/
theorem exec_of_fatal (hf : s.fatal = true) (hstatus : i ≠ .readStatus)
    (hfaultcmd : i ≠ .readFaultcmd) : exec i s = .next s := by
  cases i <;> dsimp only [exec]
  case readStatus => exact absurd rfl hstatus
  case readFaultcmd => exact absurd rfl hfaultcmd
  case txDataWord | txDelayWord | txTriggerWord | txEofWord | txTimestampWord | rxLengthWord
  | rxTimestampWord | rxDataWord => exact if_pos hf
  all_goals exact command_of_fatal hf _ _

/-- The opcodes 0x45 and 0x4A are those two reads' alone (R79). -/
theorem op_eq_iff_of_decode (hd : decode tr = some i) :
    (tr.op = 0x45 ↔ i = .readStatus) ∧ (tr.op = 0x4A ↔ i = .readFaultcmd) := by
  obtain ⟨hi, hcmd, -, -⟩ := carries_of_decode .refcfg hd
  rw [Transaction.op, ← hcmd]
  cases i
  case txDataWord | txDelayWord | txTriggerWord | txEofWord | txTimestampWord | rxLengthWord
  | rxTimestampWord | rxDataWord => cases hi
  all_goals simp [Instr.cmd, cmdWord_op]

theorem runTransaction_of_fatal (hf : s.fatal = true) (tr : Transaction) :
    s.runTransaction tr = .next
      (if illegalCommand s.cfg tr = false ∧ tr.op = 0x45 then s.withResult s.status
      else if illegalCommand s.cfg tr = false ∧ tr.op = 0x4A then s.withResult s.fcmd
      else s) := by
  unfold State.runTransaction
  cases hd : decode tr with
  | none => simp [illegalCommand_of_decode_none s.cfg hd, notACommand, hf]
  | some i =>
    obtain ⟨-, -, -, hwf⟩ := carries_of_decode s.cfg hd
    obtain ⟨hstatus, hfaultcmd⟩ := op_eq_iff_of_decode hd
    by_cases h1 : i = .readStatus
    · have hlegal : illegalCommand s.cfg tr = false := by simpa [h1, Instr.wf] using hwf
      rw [if_pos ⟨hlegal, hstatus.2 h1⟩, h1]
      rfl
    rw [if_neg fun h => h1 (hstatus.1 h.2)]
    by_cases h2 : i = .readFaultcmd
    · have hlegal : illegalCommand s.cfg tr = false := by simpa [h2, Instr.wf] using hwf
      rw [if_pos ⟨hlegal, hfaultcmd.2 h2⟩, h2]
      rfl
    · rw [if_neg fun h => h2 (hfaultcmd.1 h.2)]
      exact exec_of_fatal hf h1 h2

/-- No transaction changes the fault registers of the fatal state (R235). -/
theorem runTransaction_faults_of_fatal (hf : s.fatal = true) (h : s.runTransaction tr = .next t) :
    t.fatal = true ∧ t.fcause = s.fcause ∧ t.fcmd = s.fcmd := by
  rw [runTransaction_of_fatal hf] at h
  cases h
  split_ifs <;> exact ⟨hf, rfl, rfl⟩

theorem wf_of_step_next (h : step s = .next t) : s.cfg.wf = true := by
  by_contra hwf
  rw [step_of_inadmissible (by simpa using hwf)] at h
  cases h

/-! ## The cause of a fault, by command (R232) -/

/-- The cause beside ILLEGAL_COMMAND that R232 lists an instruction under; none lists two. -/
def ownCause : Instr → Option Cause
  | .writeU8 .. | .writeU16 .. | .writeU32 .. | .writeFloat .. | .writeString .. | .writeWord ..
  | .writeCrc _ | .writeDelay .. | .writeTrigger _ | .markEndOfFrame _ | .writeTimestamp _
  | .setIndex .. | .setLength .. | .computeCrc16 .. => some .bufferOverflow
  | .readU8 _ | .readU16 _ | .readU32 _ | .readFloat _ | .readString .. | .readCrc _
  | .readWord _ => some .readPastEnd
  | .parse _ => some .unknownDeviceClass
  | _ => none

/-- An instruction i has taken s to t with no fault, or t is s with the three fault registers of a cause that
R232 allows i. -/
inductive Precise (i : Instr) (s : State) : State → Prop
  | safe {t : State} (h : t.fatal = false) : Precise i s t
  | fault (c : Cause) (hc : c = .illegalCommand ∨ ownCause i = some c) :
      Precise i s (s.raise c (i.cmd s.cfg))

theorem Precise.of_command {body : DWord → State → State} (hf : s.fatal = false)
    (h : command i s body = .next t) (hb : Precise i s (body (i.cmd s.cfg) s)) :
    Precise i s t := by
  obtain ⟨hfatal, -⟩ | ⟨-, -, rfl⟩ | ⟨-, -, rfl⟩ := command_cases h
  · simp [hf] at hfatal
  · exact .fault _ (.inl rfl)
  · exact hb

theorem Precise.of_notACommand (hf : s.fatal = false)
    (h : notACommand (i.cmd s.cfg) s = .next t) : Precise i s t := by
  obtain ⟨hfatal, -⟩ | ⟨-, rfl⟩ := notACommand_cases h
  · simp [hf] at hfatal
  · exact .fault _ (.inl rfl)

theorem Precise.of_writeWords (hi : ownCause i = some .bufferOverflow) (hf : s.fatal = false)
    (b : BufId) (ws : List Word) : Precise i s (s.writeWords b ws (i.cmd s.cfg)) := by
  obtain ⟨-, h⟩ | ⟨-, h⟩ := s.writeWords_cases b ws (i.cmd s.cfg)
  · rw [h]; exact .fault _ (.inr hi)
  · rw [h]; exact .safe (by simpa using hf)

/-- A read, whatever it does with the words without a fault. -/
theorem Precise.of_readWords (hi : ownCause i = some .readPastEnd) (hf : s.fatal = false)
    (b : BufId) (n : Nat) {k : List Word → State → State}
    (hk : ∀ ws u, (k ws u).fatal = u.fatal) :
    Precise i s (s.readWords b n (i.cmd s.cfg) k) := by
  obtain ⟨-, h⟩ | ⟨-, h⟩ := s.readWords_cases b n (i.cmd s.cfg) k
  · rw [h]; exact .fault _ (.inr hi)
  · rw [h]; exact .safe (by simpa [hk] using hf)

theorem Precise.of_bound (hi : ownCause i = some .bufferOverflow) {n : Nat} {u : State}
    (hu : n ≤ s.cfg.capWords → u.fatal = false) :
    Precise i s (if n > s.cfg.capWords then s.raise .bufferOverflow (i.cmd s.cfg) else u) := by
  split
  · exact .fault _ (.inr hi)
  · exact .safe (hu (by omega))

/-- WRITE_CRC checks the room before its draws, so its two words fit (R128). -/
theorem Precise.of_writeCrc {b : BufId} (hf : s.fatal = false)
    (h : execWriteCrc b s = .next t) : Precise (.writeCrc b) s t := by
  refine .of_command hf h (.of_bound rfl fun room => ?_)
  rw [State.writeBytes, State.writeWords_of_room (by simpa [bytesCrc] using room)]
  simpa using hf

/-- A fault of any instruction but PARSE is precise and has a cause that R232 allows it. -/
theorem exec_precise (hi : ∀ code, i ≠ .parse code) (hf : s.fatal = false)
    (h : exec i s = .next t) : Precise i s t := by
  cases i <;> dsimp only [exec] at h
  case parse code => exact absurd rfl (hi code)
  case writeU8 | writeU16 | writeU32 | writeFloat | writeString | writeWord | writeDelay
  | writeTrigger | markEndOfFrame | writeTimestamp =>
    exact .of_command hf h (.of_writeWords rfl hf _ _)
  case writeCrc => exact .of_writeCrc hf h
  case readU8 | readU16 | readU32 | readFloat | readString | readCrc | readWord =>
    exact .of_command hf h (.of_readWords rfl hf _ _ fun _ _ => rfl)
  case setIndex | setLength =>
    exact .of_command hf h (.of_bound rfl fun _ => by simpa using hf)
  case computeCrc16 => exact .of_command hf h (.of_bound rfl fun _ => hf)
  case markStartOfFrame | clear => exact .of_command hf h (.safe (by simpa using hf))
  case getIndex | getLength | getExpected | readDevwarn | readTimeout | readRxts | txSend
  | verifyResponses | setExpected | clearExpected | clearWarnings =>
    exact .of_command hf h (.safe hf)
  case readStatus | readFaultcmd => cases h; exact .safe hf
  case txDataWord | txDelayWord | txTriggerWord | txEofWord | txTimestampWord | rxLengthWord
  | rxTimestampWord | rxDataWord => exact .of_notACommand hf h

/-- A PARSE that faults has met a class-code-3 entry, after some of the parser's writes (R187, R236). -/
theorem exec_parse_fault (hf : s.fatal = false) (h : exec (.parse code) s = .next t)
    (ht : t.fatal = true) :
    ∃ u, KeptByParser s u ∧
      t = u.raise .unknownDeviceClass ((Instr.parse code).cmd s.cfg) := by
  cases hsn : rxOfCode code with
  | none =>
    rw [exec_parse_of_noRx hf hsn] at h
    cases h
    simp [hf] at ht
  | some sn =>
    rw [exec_parse hf hsn] at h
    cases h
    obtain hu | he := s.parse_cases sn ((Instr.parse code).cmd s.cfg)
    · simp [hu.kept.fatal, hf] at ht
    generalize s.parse sn ((Instr.parse code).cmd s.cfg) = t at he ht
    cases he with
    | classThree u a k hu => exact ⟨u, hu.kept, rfl⟩
    | committed u hu =>
      have hu' : u.fatal = true := ht
      simp [hu.kept.fatal, hf] at hu'

/-- Whatever instruction faults, R232 allows it the cause in FCAUSE. -/
theorem exec_fault_cause (hf : s.fatal = false) (h : exec i s = .next t) (ht : t.fatal = true) :
    ∃ c, (c = .illegalCommand ∨ ownCause i = some c) ∧ t.fcause = c.code := by
  by_cases hi : ∃ code, i = .parse code
  · obtain ⟨code, rfl⟩ := hi
    obtain ⟨u, hu, rfl⟩ := exec_parse_fault hf h ht
    exact ⟨_, .inr rfl, by rw [State.raise_of_safe (hu.fatal.trans hf)]⟩
  · cases exec_precise (not_exists.1 hi) hf h with
    | safe hsafe => simp [hsafe] at ht
    | fault c hc => exact ⟨c, hc, by rw [State.raise_of_safe hf]⟩

/-! ## R232's lists -/

theorem ownCause_bufferOverflow (cfg : Config) (h : ownCause i = some .bufferOverflow) :
    isWrite cfg i ∨ (∃ b c v, i = .setIndex b c v) ∨ (∃ b v, i = .setLength b v) ∨
      ∃ b st n, i = .computeCrc16 b st n := by
  cases i
  case writeCrc b => exact .inl (.inr ⟨b, rfl⟩)
  case writeU8 | writeU16 | writeU32 | writeFloat | writeString | writeWord | writeDelay
  | writeTrigger | markEndOfFrame | writeTimestamp => exact .inl (.inl rfl)
  case setIndex b c v => exact .inr (.inl ⟨b, c, v, rfl⟩)
  case setLength b v => exact .inr (.inr (.inl ⟨b, v, rfl⟩))
  case computeCrc16 b st n => exact .inr (.inr (.inr ⟨b, st, n, rfl⟩))
  all_goals cases h

theorem ownCause_readPastEnd (h : ownCause i = some .readPastEnd) :
    ∃ b, i = .readU8 b ∨ i = .readU16 b ∨ i = .readU32 b ∨ i = .readFloat b ∨
      (∃ n, i = .readString b n) ∨ i = .readCrc b ∨ i = .readWord b := by
  cases i
  case readU8 b | readU16 b | readU32 b | readFloat b | readString b _ | readCrc b | readWord b =>
    exact ⟨b, by simp⟩
  all_goals cases h

theorem ownCause_unknownDeviceClass (h : ownCause i = some .unknownDeviceClass) :
    ∃ code, i = .parse code := by
  cases i
  case parse code => exact ⟨code, rfl⟩
  all_goals cases h

/-- ILLEGAL_COMMAND is no instruction's own cause: every command can raise it. -/
theorem ownCause_ne_illegalCommand : ownCause i ≠ some .illegalCommand := by
  cases i <;> nofun

end

/-! ## The statements -/

/-- Settles O15, by what a transaction comes to in the fatal state. -/
theorem fatalStateRefusesCommands : Obligations.FatalStateRefusesCommands := by
  intro s t rest hwf hf hin
  rw [step_of_input hwf hin, State.runInput]
  exact runTransaction_of_fatal (s := { s with inputs := rest }) hf t

/-- Settles O16: a command finds the fault registers written already, and the reset input clears them. -/
theorem onlyResetLeavesTheFatalState : Obligations.OnlyResetLeavesTheFatalState := by
  intro s t x rest hf hin hs
  have hwf := wf_of_step_next hs
  cases x with
  | command tr =>
    rw [step_of_input hwf hin] at hs
    exact ⟨fun _ => runTransaction_faults_of_fatal (s := { s with inputs := rest }) hf hs, nofun⟩
  | reset =>
    rw [step_of_reset hwf hin] at hs
    cases hs
    exact ⟨fun h => absurd rfl h, fun _ => ⟨rfl, rfl, rfl⟩⟩

/-- Settles O17: the faulting state is `State.raise` of the state before (`exec_precise`). -/
theorem fatalFaultIsPrecise : Obligations.FatalFaultIsPrecise := by
  intro i s t hi hf h ht
  cases exec_precise hi hf h with
  | safe hsafe => simp [hsafe] at ht
  | fault c =>
    rw [State.raise_of_safe hf]
    exact ⟨rfl, c.code_range⟩

/-- Settles O18, cause by cause: the code in FCAUSE names the cause, and R232's lists its instructions. -/
theorem causesComeFromTheirCommands : Obligations.CausesComeFromTheirCommands := by
  intro i s t _ hf h ht
  obtain ⟨c, hc, hcode⟩ := exec_fault_cause hf h ht
  rw [hcode]
  cases c with
  | illegalCommand => simp [Cause.code]
  | bufferOverflow =>
    have hi := ownCause_bufferOverflow s.cfg (hc.resolve_left nofun)
    exact ⟨fun _ => hi, nofun, nofun, .inl rfl⟩
  | readPastEnd =>
    have hi := ownCause_readPastEnd (hc.resolve_left nofun)
    exact ⟨nofun, fun _ => hi, nofun, .inr (.inl rfl)⟩
  | unknownDeviceClass =>
    have hi := ownCause_unknownDeviceClass (hc.resolve_left nofun)
    exact ⟨nofun, nofun, fun _ => hi, .inr (.inr (.inl rfl))⟩

/-- Settles O19: fatal entry after the parser's writes, none of which touches a buffer. -/
theorem fatalParseKeepsTheReadCursor : Obligations.FatalParseKeepsTheReadCursor := by
  intro code s t hf h ht
  obtain ⟨u, hu, rfl⟩ := exec_parse_fault hf h ht
  have hbuf : ∀ b, u.buf b = s.buf b := fun b => by simp only [State.buf, hu.tx, hu.rx]
  rw [State.raise_of_safe (hu.fatal.trans hf)]
  exact ⟨rfl, rfl, rfl, hbuf, hu.result, hu.rbytes, hu.timeout, hu.unknownSubnet, hu.txout⟩

end Sys2Proof.Machine
end

section
/-! PARSE and its subnet: what it can change, and what it can depend on (43_response_parser.md R181 to R193,
60_exceptions.md R243). -/

namespace Sys2Proof.Machine

open Sys2Proof

/-! ## The device that P_DISPATCH found (R186, R187) -/

/-- In P_EXCEPTION and P_DECODE the parse works on a device of its subnet. -/
def DeviceFound (sn : Subnet) (x : ParseVars × State) : Prop :=
  x.2.pstate = .exception ∨ x.2.pstate = .decode → Config.onSubnet x.2.cfg sn x.1.cls x.1.idx

section
variable {sn : Subnet} {cmd : DWord} {s s' t u : State} {v : ParseVars} {c : DevClass} {i : Nat}

/-- In the other states there is no device to speak of. -/
theorem deviceFound_of_pstate (he : s.pstate ≠ .exception) (hd : s.pstate ≠ .decode) :
    DeviceFound sn (v, s) := fun h => h.elim (absurd · he) (absurd · hd)

theorem skipRecord_deviceFound (w : SubWarning) : DeviceFound sn (skipRecord sn w v s) :=
  deviceFound_of_pstate nofun nofun

theorem endTruncated_deviceFound : DeviceFound sn (endTruncated sn v s) :=
  deviceFound_of_pstate nofun nofun

theorem parseDispatch_deviceFound : DeviceFound sn (parseDispatch sn cmd v s) := by
  unfold parseDispatch
  cases ha : Config.device? s.cfg sn (v.body.getD 0 0) with
  | none => exact skipRecord_deviceFound _
  | some ci =>
    obtain ⟨_ | c, i⟩ := ci
    · exact deviceFound_of_pstate (by simp) (by simp)
    have hdev : Config.onSubnet s.cfg sn c i := ⟨_, ha⟩
    dsimp only
    split
    · exact fun _ => hdev
    split
    · exact skipRecord_deviceFound _
    split
    · exact fun _ => hdev
    · exact skipRecord_deviceFound _

/-- Only P_DISPATCH enters P_EXCEPTION and P_DECODE, with the device it found in DMAP. -/
theorem DeviceFound.parseStep {x : ParseVars × State} (h : DeviceFound sn x) :
    DeviceFound sn (parseStep sn cmd x) := by
  obtain ⟨v, s⟩ := x
  unfold Machine.parseStep
  cases hq : s.pstate with
  | idle => exact h
  | header =>
    simp only [parseHeader]
    split_ifs
    · exact deviceFound_of_pstate nofun nofun
    · exact endTruncated_deviceFound
    · exact deviceFound_of_pstate nofun nofun
    · exact deviceFound_of_pstate nofun nofun
  | body =>
    simp only [parseBody]
    split_ifs
    · exact endTruncated_deviceFound
    · exact deviceFound_of_pstate nofun nofun
  | check =>
    simp only [parseCheck]
    split_ifs
    · exact skipRecord_deviceFound _
    · exact deviceFound_of_pstate nofun nofun
    · exact skipRecord_deviceFound _
  | dispatch => exact parseDispatch_deviceFound
  | exception =>
    simp only [parseException]
    split_ifs
    · exact deviceFound_of_pstate nofun nofun
    · exact skipRecord_deviceFound _
  | decode => exact deviceFound_of_pstate nofun nofun
  | done => exact deviceFound_of_pstate nofun nofun

theorem parseStart_deviceFound (sn : Subnet) (s : State) : DeviceFound sn (parseStart sn s) :=
  deviceFound_of_pstate nofun nofun

/-! ## What PARSE can change -/

/-- t is s but for what R243 lists for PARSE of the subnet, the fault registers, PSTATE and the draws. -/
structure SubnetOnly (sn : Subnet) (s t : State) : Prop where
  subwarn : ∀ sn', sn' ≠ sn → t.subwarn.get sn' = s.subwarn.get sn'
  rxts : ∀ sn', sn' ≠ sn → t.rxts.get sn' = s.rxts.get sn'
  rx : ∀ sn', sn' ≠ sn → t.rx.get sn' = s.rx.get sn'
  cursor : t.rx.get sn = { s.rx.get sn with ridx := (t.rx.get sn).ridx }
  exp : ∀ c i, ¬Config.onSubnet s.cfg sn c i → t.exp.get c i 0 = s.exp.get c i 0
  tel : ∀ c i, ¬Config.onSubnet s.cfg sn c i → t.tel.get c i s.cfg.tel0 = s.tel.get c i s.cfg.tel0
  devwarn : ∀ c i, ¬Config.onSubnet s.cfg sn c i → t.devwarn.get c i 0 = s.devwarn.get c i 0
  rest : t = { s with
    subwarn := t.subwarn, rxts := t.rxts, rx := t.rx, exp := t.exp, tel := t.tel,
    devwarn := t.devwarn, draws := t.draws, fatal := t.fatal, fcause := t.fcause,
    fcmd := t.fcmd, pstate := t.pstate }

theorem SubnetOnly.refl (sn : Subnet) (s : State) : SubnetOnly sn s s where
  subwarn _ _ := rfl
  rxts _ _ := rfl
  rx _ _ := rfl
  cursor := rfl
  exp _ _ _ := rfl
  tel _ _ _ := rfl
  devwarn _ _ _ := rfl
  rest := rfl

theorem SubnetOnly.cfg (h : SubnetOnly sn s t) : t.cfg = s.cfg := by rw [h.rest]

theorem SubnetOnly.trans (h : SubnetOnly sn s t) (h' : SubnetOnly sn t u) :
    SubnetOnly sn s u where
  subwarn sn' hs := (h'.subwarn sn' hs).trans (h.subwarn sn' hs)
  rxts sn' hs := (h'.rxts sn' hs).trans (h.rxts sn' hs)
  rx sn' hs := (h'.rx sn' hs).trans (h.rx sn' hs)
  cursor := by rw [h'.cursor, h.cursor]
  exp c i hd := (h'.exp c i (h.cfg ▸ hd)).trans (h.exp c i hd)
  tel c i hd := by
    have h1 := h'.tel c i (h.cfg ▸ hd)
    rw [h.cfg] at h1
    exact h1.trans (h.tel c i hd)
  devwarn c i hd := (h'.devwarn c i (h.cfg ▸ hd)).trans (h.devwarn c i hd)
  rest := by rw [h'.rest, h.rest]

/-- The entries of other devices than one of the subnet's. -/
theorem DevFile.get_set_of_not_onSubnet {α : Type} {cfg : Config}
    (hdev : Config.onSubnet cfg sn c i) (f : DevFile α) (a d : α) {c' : DevClass} {i' : Nat}
    (h : ¬Config.onSubnet cfg sn c' i') : (f.set c i a).get c' i' d = f.get c' i' d :=
  DevFile.get_set_other f a d fun e => h (by rwa [e.1, e.2])

theorem SubnetOnly.goto (s : State) (q : PState) : SubnetOnly sn s (s.goto q) :=
  { SubnetOnly.refl sn s with rest := rfl }

theorem SubnetOnly.raise (s : State) (c : Cause) (cmd : DWord) :
    SubnetOnly sn s (s.raise c cmd) := by
  unfold State.raise
  split
  · exact .goto s .idle
  · exact { SubnetOnly.refl sn s with rest := rfl }

theorem SubnetOnly.stamp (s : State) (x : DWord) :
    SubnetOnly sn s { s with rxts := s.rxts.set sn x } :=
  { SubnetOnly.refl sn s with rxts := fun _ => PerSubnet.get_set_other _ _, rest := rfl }

theorem SubnetOnly.read (s : State) (d : Nat) (q : PState) :
    SubnetOnly sn s { s with draws := d, pstate := q } :=
  { SubnetOnly.refl sn s with rest := rfl }

theorem SubnetOnly.warnSubnet (s : State) (w : SubWarning) :
    SubnetOnly sn s (s.warnSubnet sn w) :=
  { SubnetOnly.refl sn s with subwarn := fun _ => PerSubnet.get_set_other _ _, rest := rfl }

theorem SubnetOnly.setRidx (s : State) (r : Word) :
    SubnetOnly sn s (s.setBuf ⟨.rx, sn⟩ { s.rx.get sn with ridx := r }) :=
  { SubnetOnly.refl sn s with
    rx := fun _ => PerSubnet.get_set_other _ _
    cursor := by simp
    rest := rfl }

theorem SubnetOnly.warnDevice (hdev : Config.onSubnet s.cfg sn c i) (w : DevWarning) :
    SubnetOnly sn s (s.warnDevice c i w) :=
  { SubnetOnly.refl sn s with
    devwarn := fun _ _ => DevFile.get_set_of_not_onSubnet hdev _ _ _
    rest := rfl }

theorem SubnetOnly.decode (hdev : Config.onSubnet s.cfg sn c i) (r : TelRec) :
    SubnetOnly sn s { s with tel := s.tel.set c i r } :=
  { SubnetOnly.refl sn s with
    tel := fun _ _ => DevFile.get_set_of_not_onSubnet hdev _ _ _
    rest := rfl }

theorem SubnetOnly.account (hdev : Config.onSubnet s.cfg sn c i) :
    SubnetOnly sn s (s.account c i) := by
  unfold State.account
  split
  · exact .warnDevice hdev _
  · exact { SubnetOnly.refl sn s with
      exp := fun _ _ => DevFile.get_set_of_not_onSubnet hdev _ _ _
      rest := rfl }

theorem SubnetOnly.skipRecord (v : ParseVars) (s : State) (w : SubWarning) :
    SubnetOnly sn s (skipRecord sn w v s).2 := (SubnetOnly.warnSubnet s w).trans (.goto _ _)

theorem SubnetOnly.endTruncated (v : ParseVars) (s : State) :
    SubnetOnly sn s (endTruncated sn v s).2 := (SubnetOnly.warnSubnet s _).trans (.goto _ _)

theorem SubnetOnly.parseDispatch (v : ParseVars) (s : State) :
    SubnetOnly sn s (parseDispatch sn cmd v s).2 := by
  unfold Machine.parseDispatch
  split
  · exact .skipRecord v s _
  · exact .raise s _ _
  split
  · exact .goto s _
  split
  · exact .skipRecord v s _
  split
  · exact .goto s _
  · exact .skipRecord v s _

/-- Every transition of the FSM stays within R243's list. -/
theorem SubnetOnly.parseStep {x : ParseVars × State} (h : DeviceFound sn x) :
    SubnetOnly sn x.2 (parseStep sn cmd x).2 := by
  obtain ⟨v, s⟩ := x
  unfold Machine.parseStep
  cases hq : s.pstate with
  | idle => exact .refl sn s
  | header =>
    simp only [parseHeader]
    split_ifs
    · exact .goto s _
    · exact .endTruncated v s
    · exact (SubnetOnly.stamp s _).trans (.read _ _ _)
    · exact .read s _ _
  | body =>
    simp only [parseBody]
    split_ifs
    · exact .endTruncated v s
    · exact .read s _ _
  | check =>
    simp only [parseCheck]
    split_ifs
    · exact .skipRecord v s _
    · exact .goto s _
    · exact .skipRecord v s _
  | dispatch => exact .parseDispatch v s
  | exception =>
    have hdev : Config.onSubnet s.cfg sn v.cls v.idx := h (.inl hq)
    simp only [parseException]
    split_ifs
    · exact ((SubnetOnly.warnDevice hdev _).trans (.account hdev)).trans (.goto _ _)
    · exact .skipRecord v s _
  | decode =>
    have hdev : Config.onSubnet s.cfg sn v.cls v.idx := h (.inr hq)
    exact ((SubnetOnly.decode hdev _).trans (.account hdev)).trans (.goto _ _)
  | done => exact (SubnetOnly.setRidx s _).trans (.goto _ _)

theorem SubnetOnly.parseRun {x : ParseVars × State} (h : DeviceFound sn x) (k : Nat) :
    SubnetOnly sn x.2 (parseRun sn cmd k x).2 := by
  induction k generalizing x with
  | zero => exact .refl sn _
  | succ k ih =>
    rw [Machine.parseRun]
    split
    · exact .refl sn _
    · exact (SubnetOnly.parseStep h).trans (ih h.parseStep)

theorem State.parse_subnetOnly (s : State) (sn : Subnet) (cmd : DWord) :
    SubnetOnly sn s (s.parse sn cmd) :=
  (SubnetOnly.goto s .header).trans (.parseRun (parseStart_deviceFound sn s) _)

theorem exec_parse_subnetOnly {code : BitVec 4} (hsn : rxOfCode code = some sn)
    (h : exec (.parse code) s = .next t) : SubnetOnly sn s t := by
  cases hf : s.fatal with
  | true => rw [exec_parse_of_fatal hf] at h; cases h; exact .refl sn s
  | false => rw [exec_parse hf hsn] at h; cases h; exact s.parse_subnetOnly sn _

theorem SubnetOnly.otherBuffersSame (h : SubnetOnly sn s t) : OtherBuffersSame ⟨.rx, sn⟩ s t := by
  rintro ⟨_ | _, sn'⟩ hb
  · have htx : t.tx = s.tx := by rw [h.rest]
    simp only [State.buf_tx, htx]
  · exact h.rx sn' fun e => hb (by rw [e])

/-! ## What PARSE can depend on -/

/-- The entry (c, i), none past the end of the array. -/
def DevFile.entry? {α : Type} (f : DevFile α) (c : DevClass) (i : Nat) : Option α := (f.file c)[i]?

theorem DevFile.get_eq_entry? {α : Type} (f : DevFile α) (c : DevClass) (i : Nat) (d : α) :
    f.get c i d = (f.entry? c i).getD d := by simp [DevFile.get, DevFile.entry?]

theorem DevFile.entry?_of_lt {α : Type} (f : DevFile α) {c : DevClass} {i : Nat}
    (h : i < (f.file c).length) (d : α) : f.entry? c i = some (f.get c i d) := by
  simp [DevFile.get, DevFile.entry?, h]

theorem DevFile.entry?_set {α : Type} (f : DevFile α) (c c' : DevClass) (i i' : Nat) (a : α) :
    (f.set c i a).entry? c' i' =
      if c' = c ∧ i' = i then (f.entry? c i).map fun _ => a else f.entry? c' i' := by
  by_cases hc : c' = c
  · subst hc
    by_cases hi : i' = i
    · subst hi; simp [DevFile.entry?, List.getElem?_set_self']; rfl
    · simp [DevFile.entry?, hi, List.getElem?_set_ne (Ne.symm hi)]
  · simp [DevFile.entry?, hc]

/-- Two files have the same entries for the devices of a subnet. -/
def SameEntries {α : Type} (cfg : Config) (sn : Subnet) (f f' : DevFile α) : Prop :=
  ∀ c i, Config.onSubnet cfg sn c i → f'.entry? c i = f.entry? c i

section
variable {α : Type} {cfg : Config} {f f' : DevFile α}

theorem SameEntries.get (h : SameEntries cfg sn f f') (hdev : Config.onSubnet cfg sn c i) (d : α) :
    f'.get c i d = f.get c i d := by
  rw [DevFile.get_eq_entry?, DevFile.get_eq_entry?, h c i hdev]

theorem SameEntries.set (h : SameEntries cfg sn f f') (hdev : Config.onSubnet cfg sn c i) (a : α) :
    SameEntries cfg sn (f.set c i a) (f'.set c i a) := fun c' i' hdev' => by
  rw [DevFile.entry?_set, DevFile.entry?_set, h c i hdev, h c' i' hdev']

/-- Files of the right size with the same values for the devices of a subnet (R12). -/
theorem sameEntries_of_get (hwf : cfg.wf = true) (hs : f.Sized cfg) (hs' : f'.Sized cfg) (d : α)
    (h : ∀ c i, Config.onSubnet cfg sn c i → f'.get c i d = f.get c i d) :
    SameEntries cfg sn f f' := by
  intro c i hdev
  obtain ⟨a, ha⟩ := hdev
  have hi := Config.device?_lt hwf ha
  rw [f.entry?_of_lt (hs c ▸ hi) d, f'.entry?_of_lt (hs' c ▸ hi) d, h c i ⟨a, ha⟩]

end

/-- A parse of the subnet cannot tell s and s' apart: `AgreeOnSubnet` with PSTATE, and with each device's
entries the same even where a file should lack them. -/
structure SameView (sn : Subnet) (s s' : State) : Prop where
  cfg : s'.cfg = s.cfg
  rx : s'.rx.get sn = s.rx.get sn
  draws : s'.draws = s.draws
  subwarn : s'.subwarn.get sn = s.subwarn.get sn
  rxts : s'.rxts.get sn = s.rxts.get sn
  fault : s'.fatal = s.fatal ∧ s'.fcause = s.fcause ∧ s'.fcmd = s.fcmd
  pstate : s'.pstate = s.pstate
  exp : SameEntries s.cfg sn s.exp s'.exp
  tel : SameEntries s.cfg sn s.tel s'.tel
  devwarn : SameEntries s.cfg sn s.devwarn s'.devwarn

theorem AgreeOnSubnet.sameView (h : AgreeOnSubnet sn s s') (hs : s.Inv) (hs' : s'.Inv) :
    SameView sn s s' where
  cfg := h.cfg
  rx := h.rx
  draws := h.draws
  subwarn := h.subwarn
  rxts := h.rxts
  fault := h.fault
  pstate := hs'.pstate.trans hs.pstate.symm
  exp := sameEntries_of_get hs.cfg hs.exp (h.cfg ▸ hs'.exp) 0 h.exp
  tel := sameEntries_of_get hs.cfg hs.tel (h.cfg ▸ hs'.tel) s.cfg.tel0 h.tel
  devwarn := sameEntries_of_get hs.cfg hs.devwarn (h.cfg ▸ hs'.devwarn) 0 h.devwarn

theorem SameView.agree (h : SameView sn s s') : AgreeOnSubnet sn s s' where
  cfg := h.cfg
  rx := h.rx
  draws := h.draws
  subwarn := h.subwarn
  rxts := h.rxts
  fault := h.fault
  exp _ _ hdev := h.exp.get hdev 0
  tel _ _ hdev := h.tel.get hdev _
  devwarn _ _ hdev := h.devwarn.get hdev 0

theorem SameView.goto (h : SameView sn s s') (q : PState) : SameView sn (s.goto q) (s'.goto q) :=
  { h with pstate := rfl }

theorem SameView.raise (h : SameView sn s s') (c : Cause) (cmd : DWord) :
    SameView sn (s.raise c cmd) (s'.raise c cmd) := by
  cases hf : s.fatal with
  | true =>
    have hf' : s'.fatal = true := h.fault.1.trans hf
    rw [State.raise, State.raise, if_pos hf, if_pos hf']
    exact h.goto .idle
  | false =>
    rw [State.raise_of_safe hf, State.raise_of_safe (h.fault.1.trans hf)]
    exact { h with fault := ⟨rfl, rfl, rfl⟩, pstate := rfl }

theorem SameView.stamp (h : SameView sn s s') (x : DWord) :
    SameView sn { s with rxts := s.rxts.set sn x } { s' with rxts := s'.rxts.set sn x } :=
  { h with rxts := by simp }

theorem SameView.read (h : SameView sn s s') (d : Nat) (q : PState) :
    SameView sn { s with draws := d, pstate := q } { s' with draws := d, pstate := q } :=
  { h with draws := rfl, pstate := rfl }

theorem SameView.warnSubnet (h : SameView sn s s') (w : SubWarning) :
    SameView sn (s.warnSubnet sn w) (s'.warnSubnet sn w) :=
  { h with subwarn := by simp [h.subwarn] }

theorem SameView.setRidx (h : SameView sn s s') (r : Word) :
    SameView sn (s.setBuf ⟨.rx, sn⟩ { s.rx.get sn with ridx := r })
      (s'.setBuf ⟨.rx, sn⟩ { s'.rx.get sn with ridx := r }) :=
  { h with rx := by simp [h.rx] }

theorem SameView.warnDevice (h : SameView sn s s') (hdev : Config.onSubnet s.cfg sn c i)
    (w : DevWarning) : SameView sn (s.warnDevice c i w) (s'.warnDevice c i w) := by
  unfold State.warnDevice
  rw [h.devwarn.get hdev 0]
  exact { h with devwarn := h.devwarn.set hdev _ }

theorem SameView.decode (h : SameView sn s s') (hdev : Config.onSubnet s.cfg sn c i) (r : TelRec) :
    SameView sn { s with tel := s.tel.set c i r } { s' with tel := s'.tel.set c i r } :=
  { h with tel := h.tel.set hdev r }

theorem SameView.account (h : SameView sn s s') (hdev : Config.onSubnet s.cfg sn c i) :
    SameView sn (s.account c i) (s'.account c i) := by
  unfold State.account
  rw [h.exp.get hdev 0]
  split
  · exact h.warnDevice hdev _
  · exact { h with exp := h.exp.set hdev _ }

/-- Two parses of the subnet at the same point. -/
structure InStep (sn : Subnet) (x x' : ParseVars × State) : Prop where
  vars : x'.1 = x.1
  view : SameView sn x.2 x'.2

theorem SameView.inStep (h : SameView sn s s') (v : ParseVars) : InStep sn (v, s) (v, s') := ⟨rfl, h⟩

theorem SameView.skipRecord (h : SameView sn s s') (v : ParseVars) (w : SubWarning) :
    InStep sn (skipRecord sn w v s) (skipRecord sn w v s') := ((h.warnSubnet w).goto _).inStep v

theorem SameView.endTruncated (h : SameView sn s s') (v : ParseVars) :
    InStep sn (endTruncated sn v s) (endTruncated sn v s') := ((h.warnSubnet _).goto _).inStep _

/-- Two parses in step read the same words and make the same draws. -/
theorem SameView.readAll (h : SameView sn s s') (p n : Nat) :
    Memory.readAll (s'.rx.get sn).mem p n s'.draws =
      Memory.readAll (s.rx.get sn).mem p n s.draws := by
  rw [h.rx, h.draws]

theorem SameView.parseHeader (h : SameView sn s s') (v : ParseVars) :
    InStep sn (parseHeader sn v s) (parseHeader sn v s') := by
  have hhdr : s'.cfg.hdrWords = s.cfg.hdrWords := by rw [h.cfg]
  simp only [Machine.parseHeader, hhdr, h.readAll]
  split_ifs
  · exact (h.goto _).inStep v
  · exact h.endTruncated v
  · exact ((h.stamp _).read _ _).inStep _
  · exact (h.read _ _).inStep _

theorem SameView.parseBody (h : SameView sn s s') (v : ParseVars) :
    InStep sn (parseBody sn v s) (parseBody sn v s') := by
  have hbyte : s'.cfg.byteOf = s.cfg.byteOf := by rw [h.cfg]
  simp only [Machine.parseBody, hbyte, h.readAll]
  split_ifs
  · exact h.endTruncated v
  · exact (h.read _ _).inStep _

theorem SameView.parseCheck (h : SameView sn s s') (v : ParseVars) :
    InStep sn (parseCheck sn v s) (parseCheck sn v s') := by
  unfold Machine.parseCheck
  split_ifs
  · exact h.skipRecord v _
  · exact (h.goto _).inStep v
  · exact h.skipRecord v _

theorem SameView.parseDispatch (h : SameView sn s s') (v : ParseVars) :
    InStep sn (parseDispatch sn cmd v s) (parseDispatch sn cmd v s') := by
  unfold Machine.parseDispatch
  rw [h.cfg]
  split
  · exact h.skipRecord v _
  · exact (h.raise _ _).inStep v
  split
  · exact (h.goto _).inStep _
  split
  · exact h.skipRecord v _
  split
  · exact (h.goto _).inStep _
  · exact h.skipRecord v _

theorem SameView.parseException (h : SameView sn s s')
    (hdev : Config.onSubnet s.cfg sn v.cls v.idx) :
    InStep sn (parseException sn v s) (parseException sn v s') := by
  unfold Machine.parseException
  rw [h.cfg]
  split
  · exact (((h.warnDevice hdev _).account hdev).goto _).inStep v
  · exact h.skipRecord v _

theorem SameView.parseDecode (h : SameView sn s s')
    (hdev : Config.onSubnet s.cfg sn v.cls v.idx) :
    InStep sn (parseDecode v s) (parseDecode v s') := by
  have hold : s'.tel.get v.cls v.idx s'.cfg.tel0 = s.tel.get v.cls v.idx s.cfg.tel0 := by
    rw [h.cfg, h.tel.get hdev]
  simp only [Machine.parseDecode, hold]
  exact (((h.decode hdev _).account hdev).goto _).inStep v

/-- Two parses in step stay in step. -/
theorem InStep.parseStep {x x' : ParseVars × State} (h : InStep sn x x') (hd : DeviceFound sn x) :
    InStep sn (parseStep sn cmd x) (parseStep sn cmd x') := by
  obtain ⟨v, s⟩ := x
  obtain ⟨v', s'⟩ := x'
  obtain ⟨rfl, hview⟩ := h
  simp only at hview
  unfold Machine.parseStep
  simp only [hview.pstate]
  cases hq : s.pstate with
  | idle => exact hview.inStep _
  | header => exact hview.parseHeader _
  | body => exact hview.parseBody _
  | check => exact hview.parseCheck _
  | dispatch => exact hview.parseDispatch _
  | exception => exact hview.parseException (hd (.inl hq))
  | decode => exact hview.parseDecode (hd (.inr hq))
  | done => exact ((hview.setRidx _).goto _).inStep _

theorem InStep.parseRun {x x' : ParseVars × State} (h : InStep sn x x') (hd : DeviceFound sn x)
    (k : Nat) : InStep sn (parseRun sn cmd k x) (parseRun sn cmd k x') := by
  induction k generalizing x x' with
  | zero => exact h
  | succ k ih =>
    rw [Machine.parseRun, Machine.parseRun, h.view.pstate]
    split
    · exact h
    · exact ih (h.parseStep hd) hd.parseStep

theorem parseStart_inStep (h : SameView sn s s') : InStep sn (parseStart sn s) (parseStart sn s') :=
  ⟨by simp only [parseStart, h.rx], h.goto .header⟩

theorem State.parse_sameView (h : SameView sn s s') :
    SameView sn (s.parse sn cmd) (s'.parse sn cmd) := by
  have hstart := parseStart_inStep h
  rw [State.parse, State.parse, hstart.vars]
  exact (hstart.parseRun (parseStart_deviceFound sn s) _).view

end

/-! ## The statements -/

/-- Settles O46, by the frame of a whole PARSE (`exec_parse_subnetOnly`). -/
theorem parseChangesOnlyItsSubnet : Obligations.ParseChangesOnlyItsSubnet := by
  intro s t code sn hsn h
  have ht := exec_parse_subnetOnly hsn h
  exact ⟨fun sn' hs => ⟨ht.subwarn sn' hs, ht.rxts sn' hs⟩, ht.otherBuffersSame, ht.cursor,
    fun c i hd => ⟨ht.exp c i hd, ht.tel c i hd, ht.devwarn c i hd⟩, ht.rest⟩

/-- Settles O47: two parses that cannot be told apart stay so, transition by transition (`InStep`). -/
theorem parseDependsOnlyOnItsSubnet : Obligations.ParseDependsOnlyOnItsSubnet := by
  intro s s' t t' code sn hs hs' hsn hagree h h'
  have hfatal := hagree.fault.1
  cases hf : s.fatal with
  | true =>
    rw [exec_parse_of_fatal hf] at h
    rw [exec_parse_of_fatal (hfatal.trans hf)] at h'
    cases h
    cases h'
    exact hagree
  | false =>
    rw [exec_parse hf hsn] at h
    rw [exec_parse (hfatal.trans hf) hsn, hagree.cfg] at h'
    cases h
    cases h'
    exact (State.parse_sameView (hagree.sameView hs hs')).agree

end Sys2Proof.Machine
end
